-- ==== Sys2Proof/Word.lean ====
section
/-! DEFINITION. Word.lean: the fixed-width words of the block and the two small shapes that recur: one thing for
each of the four channels, and a left/right pair. Widths are those of spec/10_state.md R20. -/

namespace Sys2Proof

/-- A byte of the emulated memory array or of a register block (R20, R60). -/
abbrev Byte := BitVec 8

/-- A 24-bit byte address into the emulated memory array (R27, R30). -/
abbrev Addr := BitVec 24

/-- A 16-bit sample pattern. A "signed 16-bit" value of the spec (R13) is such a pattern read with `BitVec.toInt`. -/
abbrev Sample := BitVec 16

/-- The four DMA channels, numbered 0 to 3 (R3). -/
inductive Chan where
  | c0 | c1 | c2 | c3
deriving DecidableEq, Repr

/-- The channel's number (R3). -/
def Chan.toNat : Chan → Nat
  | .c0 => 0
  | .c1 => 1
  | .c2 => 2
  | .c3 => 3

/-- One thing for each of the four channels (R20, R292). -/
structure PerChan (α : Type) where
  c0 : α
  c1 : α
  c2 : α
  c3 : α
deriving DecidableEq, Repr

/-- The thing of channel `c`. -/
def PerChan.get {α : Type} (q : PerChan α) : Chan → α
  | .c0 => q.c0
  | .c1 => q.c1
  | .c2 => q.c2
  | .c3 => q.c3

/-- `q` with the thing of channel `c` replaced. -/
def PerChan.set {α : Type} (q : PerChan α) (c : Chan) (x : α) : PerChan α :=
  match c with
  | .c0 => { q with c0 := x }
  | .c1 => { q with c1 := x }
  | .c2 => { q with c2 := x }
  | .c3 => { q with c3 := x }

/-- The same function applied for every channel. -/
def PerChan.map {α β : Type} (f : α → β) (q : PerChan α) : PerChan β :=
  ⟨f q.c0, f q.c1, f q.c2, f q.c3⟩

/-- The four things in channel order. -/
def PerChan.toList {α : Type} (q : PerChan α) : List α := [q.c0, q.c1, q.c2, q.c3]

/-- A property that holds for every channel. -/
abbrev PerChan.Forall {α : Type} (P : α → Prop) (q : PerChan α) : Prop :=
  P q.c0 ∧ P q.c1 ∧ P q.c2 ∧ P q.c3

/-- A left and a right value, left first (R102). -/
structure Stereo (α : Type) where
  left  : α
  right : α
deriving DecidableEq, Repr

end Sys2Proof
end

