-- ==== Sys2Proof/Config.lean ====
section
/-! DEFINITION. Config.lean: what one instance of the block fixes. Every row of the parameter table
(spec/00_scope.md R10) that the spec marks OPEN, or gives as a parameter, is a field of `Params`, which State carries
unchanged through a run: a claim about every state is a claim about every value of the parameters. The one value the
spec leaves under no law, a chip-source sample the outside does not supply, is the opaque constant at the end. -/

namespace Sys2Proof

/-- Which bus a source feeds (R211). -/
inductive Bus where
  | left | right
deriving DecidableEq, Repr

/-- How the raw 16-bit pattern becomes a number before volume scaling (R97, R180, R181). -/
inductive RawInterp where
  | twosComplement
  | unsignedWrap
deriving DecidableEq, Repr

/-- Byte order of a serialised output value, outside the block (R65). -/
inductive ByteOrder where
  | little | big
deriving DecidableEq, Repr

/-- The six fields of a register block, 13 bytes (R20). It is the layout of `REG[c]` and of `REG_RESET[c]`. -/
structure RegBlock where
  control        : Byte
  startAddress   : Addr
  rateIncrement  : BitVec 24
  endAddress     : BitVec 16
  volume         : Byte
  currentAddress : Addr
deriving DecidableEq, Repr

/-- The parameters of R10. `K_CHIP` is the length of `chipBus`. -/
structure Params where
  /-- NATIVE_CLOCK_HZ (R9) -/
  nativeClockHz    : Nat
  /-- OUTPUT_SAMPLE_RATE (R9) -/
  outputSampleRate : Nat
  /-- MEM_SIZE (R60) -/
  memSize          : Nat
  /-- REG_BASE[c] (R69) -/
  regBase          : PerChan Nat
  /-- BUS_ASSIGN of the four DMA channels (R211) -/
  chanBus          : PerChan Bus
  /-- BUS_ASSIGN of the chip sources, one entry for each (R201, R202) -/
  chipBus          : List Bus
  /-- RAW_INTERP (R97) -/
  rawInterp        : RawInterp
  /-- MV_RESET (R57) -/
  mvReset          : Int
  /-- SEP_RESET (R57) -/
  sepReset         : Int
  /-- REG_RESET[c] (R56) -/
  regReset         : PerChan RegBlock
  /-- OUT_BYTE_ORDER (R65) -/
  outByteOrder     : ByteOrder
  /-- RENDER_ENABLED, port P8 (R288) -/
  renderEnabled    : Bool
deriving DecidableEq, Repr

/-- K_CHIP, the number of chip-source inputs (R10, R202). -/
def Params.kChip (p : Params) : Nat := p.chipBus.length

/-- Thirteen bytes of 0x00, the reset value R56 recommends (log 7). -/
def RegBlock.zero : RegBlock := ⟨0, 0, 0, 0, 0, 0⟩

/-- The parameters `State.reset` is built from (log 6, DESIGN CHOICE; the clocks are the example of R9, the bus
assignment the suggestion of R211, PRESUMED). -/
def Params.example : Params where
  nativeClockHz := 40500000
  outputSampleRate := 48000
  memSize := 0x1000000
  regBase := ⟨0x00, 0x10, 0x20, 0x30⟩
  chanBus := ⟨.left, .left, .right, .right⟩
  chipBus := []
  rawInterp := .twosComplement
  mvReset := 0
  sepReset := 0
  regReset := ⟨.zero, .zero, .zero, .zero⟩
  outByteOrder := .little
  renderEnabled := true

/-- FREE VALUE: the chip-source sample drawn at the block's own step number `n` when no message supplied one. R200:
"any value in [-32768, 32767], under no law" (log 16). -/
opaque Config.chipDraw : Nat → Sample

end Sys2Proof
end

