-- ==== Sys2Proof/Syntax.lean ====
section
/-! DEFINITION. Syntax.lean: the operations of the block, one constructor for each row of spec/opcode_table.json
(spec/30_encoding.md R110, R111). -/

namespace Sys2Proof

/-- The four sample formats, `FMT` 0 to 3 (R25, R93). -/
inductive Format where
  | lo4 | hi4 | b8 | w16
deriving DecidableEq, Repr

/-- The fields of a register block, in layout order (R20, R91). -/
inductive RegField where
  | control | startAddress | rateIncrement | endAddress | volume | currentAddress
deriving DecidableEq, Repr

/-- Which of the two results of a frame (R240: the clip is "applied to both results"). -/
inductive Side where
  | left | right
deriving DecidableEq, Repr

/-- The operations. In a CTRL8 row `ctl` is the control byte the row's mask selects; in a REGOFF4 row `b` is the byte
written. Values `v` of the field writes may be any number: the write reduces them to the field's width (R250). An
`Option` argument of `cfgSet` is `none` for the token UNCHANGED (R99). -/
inductive Instr where
  -- format CTRL8 (R94)
  | chIdleDisabled (c : Chan) (ctl : Byte)
  | chIdleStopped (c : Chan) (ctl : Byte)
  | fetchLo4 (c : Chan) (ctl : Byte)
  | fetchHi4 (c : Chan) (ctl : Byte)
  | fetchB8 (c : Chan) (ctl : Byte)
  | fetchW16 (c : Chan) (ctl : Byte)
  -- format REGOFF4 (R91, R262)
  | hwByte0 (c : Chan) (b : Byte)
  | hwByte1 (c : Chan) (b : Byte)
  | hwByte2 (c : Chan) (b : Byte)
  | hwByte3 (c : Chan) (b : Byte)
  | hwByte4 (c : Chan) (b : Byte)
  | hwByte5 (c : Chan) (b : Byte)
  | hwByte6 (c : Chan) (b : Byte)
  | hwByte7 (c : Chan) (b : Byte)
  | hwByte8 (c : Chan) (b : Byte)
  | hwByte9 (c : Chan) (b : Byte)
  | hwByteA (c : Chan) (b : Byte)
  | hwByteB (c : Chan) (b : Byte)
  | hwByteC (c : Chan) (b : Byte)
  | noneD (c : Chan) (b : Byte)
  | noneE (c : Chan) (b : Byte)
  | noneF (c : Chan) (b : Byte)
  -- format PORT, agents CH[c]
  | chStep (c : Chan)
  | chBegin (c : Chan)
  | rcAdd (c : Chan)
  | rcTick (c : Chan)
  | chEmit (c : Chan)
  | volScale (c : Chan)
  | endLoop (c : Chan)
  | endStop (c : Chan)
  -- format PORT, agents SRC[k], MIX, CFG
  | srcIn (k : Nat) (x : Sample)
  | mixSum
  | mixMatrix
  | clipS16 (side : Side)
  | frameOut
  | cfgSet (volume separation : Option Int)
  | gainUpdate
  -- format PORT, agents HOST, SINK and the outside
  | hwControl (c : Chan) (v : Nat)
  | hwStart (c : Chan) (v : Nat)
  | hwRate (c : Chan) (v : Nat)
  | hwEnd (c : Chan) (v : Nat)
  | hwVolume (c : Chan) (v : Nat)
  | hwCurrent (c : Chan) (v : Nat)
  | hwByte (ioAddr : Nat) (b : Byte)
  | hrField (c : Chan) (f : RegField)
  | memWr (a : Nat) (b : Byte)
  | render (n : Nat)
  | reset
deriving DecidableEq, Repr

end Sys2Proof
end

