-- ==== Sys2Proof/WellFormed.lean ====
section
/-! DEFINITION. WellFormed.lean: the operands the opcode table allows. Only the CTRL8 rows restrict an operand: the
control byte must lie in the row's class, by the mask and match of spec/30_encoding.md R94. Every other operand is
legal at every value (R103: "There is no illegal encoding anywhere in the block"). -/

namespace Sys2Proof

/-- `ctl` is selected by a CTRL8 row. -/
def ctrlMatches (mask pattern ctl : Byte) : Bool := ctl &&& mask == pattern

/-- The operands of `i` are ones its row admits. -/
def Instr.wellFormed : Instr → Bool
  | .chIdleDisabled _ ctl => ctrlMatches 0x80 0x00 ctl
  | .chIdleStopped _ ctl => ctrlMatches 0x88 0x88 ctl
  | .fetchLo4 _ ctl => ctrlMatches 0x8B 0x80 ctl
  | .fetchHi4 _ ctl => ctrlMatches 0x8B 0x81 ctl
  | .fetchB8 _ ctl => ctrlMatches 0x8B 0x82 ctl
  | .fetchW16 _ ctl => ctrlMatches 0x8B 0x83 ctl
  | .hwByte0 _ _ | .hwByte1 _ _ | .hwByte2 _ _ | .hwByte3 _ _ | .hwByte4 _ _ | .hwByte5 _ _ | .hwByte6 _ _
  | .hwByte7 _ _ | .hwByte8 _ _ | .hwByte9 _ _ | .hwByteA _ _ | .hwByteB _ _ | .hwByteC _ _ => true
  | .noneD _ _ | .noneE _ _ | .noneF _ _ => true
  | .chStep _ | .chBegin _ | .rcAdd _ | .rcTick _ | .chEmit _ | .volScale _ | .endLoop _ | .endStop _ => true
  | .srcIn _ _ | .mixSum | .mixMatrix | .clipS16 _ | .frameOut | .cfgSet _ _ | .gainUpdate => true
  | .hwControl _ _ | .hwStart _ _ | .hwRate _ _ | .hwEnd _ _ | .hwVolume _ _ | .hwCurrent _ _ => true
  | .hwByte _ _ | .hrField _ _ | .memWr _ _ | .render _ | .reset => true

end Sys2Proof
end

