-- ==== Sys2Proof/Decode.lean ====
section
/-! DEFINITION. Decode.lean: what the block decodes, and the messages that carry operations to it.

From the spec: the class of a control byte (spec/30_encoding.md R94) and the byte offset within a register block
(R91, the REGOFF4 rows). The block has no instruction words (R90) and the spec gives the ports no encoding, so the
message that carries an operation is the model's own (log 1, DESIGN CHOICE), built around those two:

  lead byte 1xxxxxxx  a control byte with EN = 1, then the channel             the CTRL8 rows with bit 7 set
  lead byte 00ccoooo  offset oooo of channel cc's block, then the byte          the REGOFF4 rows
  lead byte 0x40      a control byte with EN = 0, then the channel             CH.IDLE (disabled)
  lead byte 0x41 ..   one value for each PORT row, then its operands

A channel operand is one byte 0 to 3; a number is a string of 7-bit groups, least significant first, bit 7 set on
all but the last, with no superfluous last group; an integer is a number with its sign in bit 0; UNCHANGED is the
byte 0, any other `cfgSet` argument the byte 1 and the integer. -/

namespace Sys2Proof

/-! ## The control byte -/

/-- The six classes of a control byte (R94). -/
inductive CtrlClass where
  | idleDisabled | idleStopped | play (f : Format)
deriving DecidableEq, Repr

/-- `FMT`, bits 1:0 of a control byte (R93). -/
def formatOf (ctl : Byte) : Format :=
  match ctl.getLsbD 1, ctl.getLsbD 0 with
  | false, false => .lo4
  | false, true => .hi4
  | true, false => .b8
  | true, true => .w16

/-- The class of a control byte: disabled when bit 7 is 0, stopped when bits 7 and 3 are 1, else playing in the
format of bits 1:0 (R94). -/
def ctrlClass (ctl : Byte) : CtrlClass :=
  if ctl.getLsbD 7 = false then .idleDisabled
  else if ctl.getLsbD 3 then .idleStopped
  else .play (formatOf ctl)

/-! ## Reading the parts of a message -/

/-- Why bytes are no message. -/
inductive DecodeError where
  /-- the bytes end inside a message -/
  | truncated
  /-- no operation has this lead byte -/
  | unknownLead (b : Byte)
  /-- a channel byte above 3 -/
  | noSuchChannel (b : Byte)
  /-- a field code above 5 -/
  | noSuchField (b : Byte)
  /-- a side code above 1 -/
  | noSuchSide (b : Byte)
  /-- an option byte above 1 -/
  | noSuchOption (b : Byte)
  /-- a number with a superfluous last group -/
  | longNumber
  /-- a control byte outside the class its lead byte announces -/
  | controlClass (ctl : Byte)
deriving DecidableEq, Repr

/-- What reading a part answers: the part and the bytes after it, or why there is none. -/
abbrev Read (α : Type) := Except DecodeError (α × List Byte)

/-- Go on with what was read. -/
def Read.andThen {α β : Type} (r : Read α) (f : α → List Byte → Read β) : Read β :=
  match r with
  | .ok (a, rest) => f a rest
  | .error e => .error e

/-- A whole message has been read. -/
def Read.done {α : Type} (a : α) (rest : List Byte) : Read α := .ok (a, rest)

/-- One byte. -/
def readByte : List Byte → Read Byte
  | [] => .error .truncated
  | b :: rest => .ok (b, rest)

/-- The channel of a two-bit number. -/
def chanOfBits (hi lo : Bool) : Chan :=
  match hi, lo with
  | false, false => .c0
  | false, true => .c1
  | true, false => .c2
  | true, true => .c3

/-- A channel byte, 0 to 3. -/
def readChan : List Byte → Read Chan
  | [] => .error .truncated
  | b :: rest => if b.toNat < 4 then .ok (chanOfBits (b.getLsbD 1) (b.getLsbD 0), rest) else .error (.noSuchChannel b)

/-- A number of any size, in 7-bit groups. -/
def readNat : List Byte → Read Nat
  | [] => .error .truncated
  | b :: rest =>
    if b.toNat < 128 then .ok (b.toNat, rest)
    else
      match readNat rest with
      | .ok (0, _) => .error .longNumber
      | .ok (n + 1, rest') => .ok (b.toNat - 128 + 128 * (n + 1), rest')
      | .error e => .error e

/-- The integer a number stands for: even numbers are 0, 1, 2, ..., odd ones -1, -2, ... -/
def intOfCode (n : Nat) : Int := if n % 2 = 0 then Int.ofNat (n / 2) else Int.negSucc (n / 2)

/-- An integer of any size. -/
def readInt (bs : List Byte) : Read Int := (readNat bs).andThen fun n rest => .ok (intOfCode n, rest)

/-- An argument of `CFG.SET`: the token UNCHANGED (R99) or an integer. -/
def readArg : List Byte → Read (Option Int)
  | [] => .error .truncated
  | b :: rest =>
    match b.toNat with
    | 0 => .ok (none, rest)
    | 1 => (readInt rest).andThen fun x rest' => .ok (some x, rest')
    | _ => .error (.noSuchOption b)

/-- A 16-bit pattern, low byte first. -/
def readSample (bs : List Byte) : Read Sample :=
  (readByte bs).andThen fun lo rest => (readByte rest).andThen fun hi rest' => .ok (hi ++ lo, rest')

/-- A field code, 0 to 5 in layout order. -/
def readField : List Byte → Read RegField
  | [] => .error .truncated
  | b :: rest =>
    match b.toNat with
    | 0 => .ok (.control, rest)
    | 1 => .ok (.startAddress, rest)
    | 2 => .ok (.rateIncrement, rest)
    | 3 => .ok (.endAddress, rest)
    | 4 => .ok (.volume, rest)
    | 5 => .ok (.currentAddress, rest)
    | _ => .error (.noSuchField b)

/-- A side code, 0 left, 1 right. -/
def readSide : List Byte → Read Side
  | [] => .error .truncated
  | b :: rest =>
    match b.toNat with
    | 0 => .ok (.left, rest)
    | 1 => .ok (.right, rest)
    | _ => .error (.noSuchSide b)

/-! ## Messages -/

/-- The REGOFF4 row of a byte offset (R91, R111). -/
def decodeOffset (off : BitVec 4) (c : Chan) (b : Byte) : Instr :=
  match off.toNat with
  | 0x0 => .hwByte0 c b
  | 0x1 => .hwByte1 c b
  | 0x2 => .hwByte2 c b
  | 0x3 => .hwByte3 c b
  | 0x4 => .hwByte4 c b
  | 0x5 => .hwByte5 c b
  | 0x6 => .hwByte6 c b
  | 0x7 => .hwByte7 c b
  | 0x8 => .hwByte8 c b
  | 0x9 => .hwByte9 c b
  | 0xA => .hwByteA c b
  | 0xB => .hwByteB c b
  | 0xC => .hwByteC c b
  | 0xD => .noneD c b
  | 0xE => .noneE c b
  | _ => .noneF c b

/-- The CTRL8 row of a control byte (R94, R111). -/
def decodeControl (ctl : Byte) (c : Chan) : Instr :=
  match ctrlClass ctl with
  | .idleDisabled => .chIdleDisabled c ctl
  | .idleStopped => .chIdleStopped c ctl
  | .play .lo4 => .fetchLo4 c ctl
  | .play .hi4 => .fetchHi4 c ctl
  | .play .b8 => .fetchB8 c ctl
  | .play .w16 => .fetchW16 c ctl

/-- A message whose only operand is a channel. -/
def readWithChan (f : Chan → Instr) (bs : List Byte) : Read Instr :=
  (readChan bs).andThen fun c rest => .done (f c) rest

/-- A message whose operands are a channel and a number. -/
def readWithChanNat (f : Chan → Nat → Instr) (bs : List Byte) : Read Instr :=
  (readChan bs).andThen fun c rest => (readNat rest).andThen fun v rest' => .done (f c v) rest'

/-- A message whose operands are a number and a byte. -/
def readWithNatByte (f : Nat → Byte → Instr) (bs : List Byte) : Read Instr :=
  (readNat bs).andThen fun a rest => (readByte rest).andThen fun b rest' => .done (f a b) rest'

/-- A disabled control byte, then the channel. -/
def readDisabled (bs : List Byte) : Read Instr :=
  (readByte bs).andThen fun ctl rest =>
    if ctl.getLsbD 7 then .error (.controlClass ctl)
    else readWithChan (decodeControl ctl) rest

/-- The messages with a lead byte from 0x40 to 0x7F. -/
def decodePort (lead : Byte) (bs : List Byte) : Read Instr :=
  match lead.toNat with
  | 0x40 => readDisabled bs
  | 0x41 => readWithChan .chStep bs
  | 0x42 => readWithChan .chBegin bs
  | 0x43 => readWithChan .rcAdd bs
  | 0x44 => readWithChan .rcTick bs
  | 0x45 => readWithChan .chEmit bs
  | 0x46 => readWithChan .volScale bs
  | 0x47 => readWithChan .endLoop bs
  | 0x48 => readWithChan .endStop bs
  | 0x49 => (readNat bs).andThen fun k rest => (readSample rest).andThen fun x rest' => .done (.srcIn k x) rest'
  | 0x4A => .done .mixSum bs
  | 0x4B => .done .mixMatrix bs
  | 0x4C => (readSide bs).andThen fun side rest => .done (.clipS16 side) rest
  | 0x4D => .done .frameOut bs
  | 0x4E => (readArg bs).andThen fun v rest => (readArg rest).andThen fun sep rest' => .done (.cfgSet v sep) rest'
  | 0x4F => .done .gainUpdate bs
  | 0x50 => readWithChanNat .hwControl bs
  | 0x51 => readWithChanNat .hwStart bs
  | 0x52 => readWithChanNat .hwRate bs
  | 0x53 => readWithChanNat .hwEnd bs
  | 0x54 => readWithChanNat .hwVolume bs
  | 0x55 => readWithChanNat .hwCurrent bs
  | 0x56 => readWithNatByte .hwByte bs
  | 0x57 => (readChan bs).andThen fun c rest => (readField rest).andThen fun f rest' => .done (.hrField c f) rest'
  | 0x58 => readWithNatByte .memWr bs
  | 0x59 => (readNat bs).andThen fun n rest => .done (.render n) rest
  | 0x5A => .done .reset bs
  | _ => .error (.unknownLead lead)

/-- The first message of `bs` and the bytes after it, or why there is none. Total on any bytes. -/
def decode : List Byte → Read Instr
  | [] => .error .truncated
  | lead :: rest =>
    if lead.getLsbD 7 then readWithChan (decodeControl lead) rest
    else if lead.getLsbD 6 then decodePort lead rest
    else (readByte rest).andThen fun b rest' =>
      .done (decodeOffset (lead.extractLsb' 0 4) (chanOfBits (lead.getLsbD 5) (lead.getLsbD 4)) b) rest'

/-! ## Writing messages -/

/-- A channel as a byte. -/
def chanByte (c : Chan) : Byte := BitVec.ofNat 8 c.toNat

/-- A number in 7-bit groups, with `fuel` at least the number of groups. -/
def encodeNatFuel : Nat → Nat → List Byte
  | 0, n => [BitVec.ofNat 8 n]
  | fuel + 1, n =>
    if n < 128 then [BitVec.ofNat 8 n] else BitVec.ofNat 8 (128 + n % 128) :: encodeNatFuel fuel (n / 128)

/-- A number in 7-bit groups. -/
def encodeNat (n : Nat) : List Byte := encodeNatFuel n n

/-- The number that stands for an integer. -/
def codeOfInt : Int → Nat
  | .ofNat n => 2 * n
  | .negSucc n => 2 * n + 1

/-- An argument of `CFG.SET`. -/
def encodeArg : Option Int → List Byte
  | none => [0]
  | some x => 1 :: encodeNat (codeOfInt x)

/-- A 16-bit pattern, low byte first. -/
def encodeSample (x : Sample) : List Byte := [x.extractLsb' 0 8, x.extractLsb' 8 8]

/-- The code of a field. -/
def fieldByte : RegField → Byte
  | .control => 0
  | .startAddress => 1
  | .rateIncrement => 2
  | .endAddress => 3
  | .volume => 4
  | .currentAddress => 5

/-- The code of a side. -/
def sideByte : Side → Byte
  | .left => 0
  | .right => 1

/-- A byte write at offset `off` of channel `c`'s block. -/
def encodeOffset (off : Nat) (c : Chan) (b : Byte) : List Byte := [BitVec.ofNat 8 (16 * c.toNat + off), b]

/-- The message of an operation. -/
def encode : Instr → List Byte
  | .chIdleDisabled c ctl => [0x40, ctl, chanByte c]
  | .chIdleStopped c ctl => [ctl, chanByte c]
  | .fetchLo4 c ctl => [ctl, chanByte c]
  | .fetchHi4 c ctl => [ctl, chanByte c]
  | .fetchB8 c ctl => [ctl, chanByte c]
  | .fetchW16 c ctl => [ctl, chanByte c]
  | .hwByte0 c b => encodeOffset 0x0 c b
  | .hwByte1 c b => encodeOffset 0x1 c b
  | .hwByte2 c b => encodeOffset 0x2 c b
  | .hwByte3 c b => encodeOffset 0x3 c b
  | .hwByte4 c b => encodeOffset 0x4 c b
  | .hwByte5 c b => encodeOffset 0x5 c b
  | .hwByte6 c b => encodeOffset 0x6 c b
  | .hwByte7 c b => encodeOffset 0x7 c b
  | .hwByte8 c b => encodeOffset 0x8 c b
  | .hwByte9 c b => encodeOffset 0x9 c b
  | .hwByteA c b => encodeOffset 0xA c b
  | .hwByteB c b => encodeOffset 0xB c b
  | .hwByteC c b => encodeOffset 0xC c b
  | .noneD c b => encodeOffset 0xD c b
  | .noneE c b => encodeOffset 0xE c b
  | .noneF c b => encodeOffset 0xF c b
  | .chStep c => [0x41, chanByte c]
  | .chBegin c => [0x42, chanByte c]
  | .rcAdd c => [0x43, chanByte c]
  | .rcTick c => [0x44, chanByte c]
  | .chEmit c => [0x45, chanByte c]
  | .volScale c => [0x46, chanByte c]
  | .endLoop c => [0x47, chanByte c]
  | .endStop c => [0x48, chanByte c]
  | .srcIn k x => 0x49 :: (encodeNat k ++ encodeSample x)
  | .mixSum => [0x4A]
  | .mixMatrix => [0x4B]
  | .clipS16 side => [0x4C, sideByte side]
  | .frameOut => [0x4D]
  | .cfgSet v sep => 0x4E :: (encodeArg v ++ encodeArg sep)
  | .gainUpdate => [0x4F]
  | .hwControl c v => 0x50 :: chanByte c :: encodeNat v
  | .hwStart c v => 0x51 :: chanByte c :: encodeNat v
  | .hwRate c v => 0x52 :: chanByte c :: encodeNat v
  | .hwEnd c v => 0x53 :: chanByte c :: encodeNat v
  | .hwVolume c v => 0x54 :: chanByte c :: encodeNat v
  | .hwCurrent c v => 0x55 :: chanByte c :: encodeNat v
  | .hwByte a b => 0x56 :: (encodeNat a ++ [b])
  | .hrField c f => [0x57, chanByte c, fieldByte f]
  | .memWr a b => 0x58 :: (encodeNat a ++ [b])
  | .render n => 0x59 :: encodeNat n
  | .reset => [0x5A]

/-! ## Words of the opcode table -/

/-- The first `count` bytes of a number, least significant first. -/
def bytesOfWord : Nat → Nat → List Byte
  | 0, _ => []
  | count + 1, w => BitVec.ofNat 8 w :: bytesOfWord count (w / 256)

/-- A table word as message bytes: its own bytes and eight operand bytes of zero, which no message of zeros exceeds. -/
def tableBytes (nbits w : Nat) : List Byte := bytesOfWord ((nbits + 7) / 8) w ++ List.replicate 8 0

/-- The operation the decoder reads from a word of the opcode table (log 24). -/
def decodeTableWord (nbits w : Nat) : Option Instr :=
  match decode (tableBytes nbits w) with
  | .ok (i, _) => some i
  | .error _ => none

/-- The bytes of the message that a table word begins, and no byte after it; the padded bytes where there is none. -/
def tableMessage (nbits w : Nat) : List Byte :=
  let bs := tableBytes nbits w
  match decode bs with
  | .ok (_, rest) => bs.take (bs.length - rest.length)
  | .error _ => bs

end Sys2Proof
end

