-- ==== Sys2Proof/Machine/Operands.lean ====
section
/-! DEFINITION. Operands.lean: every operand form and every piece of arithmetic the spec gives, as functions of plain
values: integers (spec/00_scope.md R11 to R15), the byte layout of a register block (spec/30_encoding.md R91, R92),
the raw sample of each format (R96), volume scaling (spec/42_dma_sample_decoder.md R180, R181), the clock ratio (R9),
the gains and the matrix (spec/44_audio_mixer_router.md R212, R221), the clip (spec/45_output_clipper.md R240) and
the serialised frame (R65, R102). -/

namespace Sys2Proof.Machine

/-! ## Integers -/

/-- Integer division truncating toward zero (R14). -/
def tdiv (a b : Int) : Int := a.tdiv b

/-- `x` clamped into `[lo, hi]` (R15). -/
def clamp (x lo hi : Int) : Int := if x < lo then lo else if hi < x then hi else x

/-- `CLIP.S16` (R240): saturate, not wrap. -/
def clip16 (x : Int) : Int := clamp x (-32768) 32767

/-- The 16-bit pattern of a signed value (R13). -/
def sampleOfInt (x : Int) : Sample := BitVec.ofInt 16 x

/-! ## The byte layout of a register block -/

/-- A 24-bit field from its bytes, lowest offset first (R92). -/
def le24 (b0 b1 b2 : Byte) : BitVec 24 := b2 ++ b1 ++ b0

/-- A 16-bit field from its bytes, lowest offset first (R92). -/
def le16 (b0 b1 : Byte) : BitVec 16 := b1 ++ b0

/-- Byte `j` of a field, counted from the least significant (R92). -/
def byteOf {w : Nat} (v : BitVec w) (j : Nat) : Byte := v.extractLsb' (8 * j) 8

/-- A register block from the bytes at its offsets (R91, R92). -/
def regBlockOfBytes (B : Nat → Byte) : RegBlock where
  control := B 0x0
  startAddress := le24 (B 0x1) (B 0x2) (B 0x3)
  rateIncrement := le24 (B 0x4) (B 0x5) (B 0x6)
  endAddress := le16 (B 0x7) (B 0x8)
  volume := B 0x9
  currentAddress := le24 (B 0xA) (B 0xB) (B 0xC)

/-- The 13 bytes of a register block, offset 0 first (R91, R92). -/
def regBlockBytes (r : RegBlock) : List Byte :=
  [r.control,
   byteOf r.startAddress 0, byteOf r.startAddress 1, byteOf r.startAddress 2,
   byteOf r.rateIncrement 0, byteOf r.rateIncrement 1, byteOf r.rateIncrement 2,
   byteOf r.endAddress 0, byteOf r.endAddress 1,
   r.volume,
   byteOf r.currentAddress 0, byteOf r.currentAddress 1, byteOf r.currentAddress 2]

/-- A write of value `v`, reduced to the field's width, to one field (R250 to R256). -/
def writeField (r : RegBlock) (f : RegField) (v : Nat) : RegBlock :=
  match f with
  | .control => { r with control := BitVec.ofNat 8 v }
  | .startAddress => { r with startAddress := BitVec.ofNat 24 v }
  | .rateIncrement => { r with rateIncrement := BitVec.ofNat 24 v }
  | .endAddress => { r with endAddress := BitVec.ofNat 16 v }
  | .volume => { r with volume := BitVec.ofNat 8 v }
  | .currentAddress => { r with currentAddress := BitVec.ofNat 24 v }

/-- The value of a field, zero-extended to 24 bits (R260). -/
def readFieldValue (r : RegBlock) : RegField → BitVec 24
  | .control => r.control.setWidth 24
  | .startAddress => r.startAddress
  | .rateIncrement => r.rateIncrement
  | .endAddress => r.endAddress.setWidth 24
  | .volume => r.volume.setWidth 24
  | .currentAddress => r.currentAddress

/-- A write of one byte of a block (R262): the field that contains offset `off` takes its present value with that byte
replaced. Offsets from 0xD on are not part of the block (R69, R103 b). -/
def writeByteAt (r : RegBlock) (off : Nat) (b : Byte) : RegBlock :=
  match off with
  | 0x0 => { r with control := b }
  | 0x1 => { r with startAddress := le24 b (byteOf r.startAddress 1) (byteOf r.startAddress 2) }
  | 0x2 => { r with startAddress := le24 (byteOf r.startAddress 0) b (byteOf r.startAddress 2) }
  | 0x3 => { r with startAddress := le24 (byteOf r.startAddress 0) (byteOf r.startAddress 1) b }
  | 0x4 => { r with rateIncrement := le24 b (byteOf r.rateIncrement 1) (byteOf r.rateIncrement 2) }
  | 0x5 => { r with rateIncrement := le24 (byteOf r.rateIncrement 0) b (byteOf r.rateIncrement 2) }
  | 0x6 => { r with rateIncrement := le24 (byteOf r.rateIncrement 0) (byteOf r.rateIncrement 1) b }
  | 0x7 => { r with endAddress := le16 b (byteOf r.endAddress 1) }
  | 0x8 => { r with endAddress := le16 (byteOf r.endAddress 0) b }
  | 0x9 => { r with volume := b }
  | 0xA => { r with currentAddress := le24 b (byteOf r.currentAddress 1) (byteOf r.currentAddress 2) }
  | 0xB => { r with currentAddress := le24 (byteOf r.currentAddress 0) b (byteOf r.currentAddress 2) }
  | 0xC => { r with currentAddress := le24 (byteOf r.currentAddress 0) (byteOf r.currentAddress 1) b }
  | _ => r

/-- The I/O address of offset `off` of channel `c`'s block, `REG_BASE[c] + off` (R69, R262). -/
def ioAddress (p : Params) (c : Chan) (off : Nat) : Nat := p.regBase.get c + off

/-- Offset of I/O address `a` within channel `c`'s 13-byte block, if it lies there (R69). -/
def ioOffset (p : Params) (a : Nat) (c : Chan) : Option Nat :=
  if p.regBase.get c ≤ a ∧ a < p.regBase.get c + 13 then some (a - p.regBase.get c) else none

/-- Address decode of the register space (R69): the channel and offset an I/O address names, if any. Blocks do not
overlap (`ParamsWf`), so the order in which they are tried does not matter. -/
def ioDecode (p : Params) (a : Nat) : Option (Chan × Nat) :=
  match ioOffset p a .c0, ioOffset p a .c1, ioOffset p a .c2, ioOffset p a .c3 with
  | some off, _, _, _ => some (.c0, off)
  | none, some off, _, _ => some (.c1, off)
  | none, none, some off, _ => some (.c2, off)
  | none, none, none, some off => some (.c3, off)
  | none, none, none, none => none

/-! ## Samples -/

/-- `STEP(fmt)`: how many bytes a datum takes (R95). -/
def stepBytes : Format → Nat
  | .lo4 | .hi4 | .b8 => 1
  | .w16 => 2

/-- The raw pattern of format 0, the low nibble in bits 15:12 (R96, R171). -/
def rawLo4 (b0 : Byte) : Sample := (b0 &&& 0x0F).setWidth 16 <<< 12

/-- The raw pattern of format 1, the high nibble in bits 15:12 (R96, R172). -/
def rawHi4 (b0 : Byte) : Sample := (b0 &&& 0xF0).setWidth 16 <<< 8

/-- The raw pattern of format 2, the byte in bits 15:8 (R96, R173). -/
def rawB8 (b0 : Byte) : Sample := b0.setWidth 16 <<< 8

/-- The raw pattern of format 3, little-endian (R96, R174). -/
def rawW16 (b0 b1 : Byte) : Sample := le16 b0 b1

/-- `VOL.SCALE` under `twos_complement` (R180). -/
def scaleTwos (raw : Sample) (v : Byte) : Int := tdiv (raw.toInt * v.toNat) 255

/-- `VOL.SCALE` under `unsigned_wrap` (R181), before the result is read as a signed number. -/
def scaleWrap (raw : Sample) (v : Byte) : Nat := raw.toNat * v.toNat / 255

/-- `VOL.SCALE` (R180, R181): the sample a raw pattern gives at a volume. -/
def volScale (interp : RawInterp) (raw : Sample) (v : Byte) : Sample :=
  match interp with
  | .twosComplement => sampleOfInt (scaleTwos raw v)
  | .unsignedWrap => BitVec.ofNat 16 (scaleWrap raw v)

/-! ## The clock ratio -/

/-- RATIO_NUM (R9). -/
def ratioNum (p : Params) : Nat := p.nativeClockHz / Nat.gcd p.nativeClockHz p.outputSampleRate

/-- RATIO_DEN (R9). -/
def ratioDen (p : Params) : Nat := p.outputSampleRate / Nat.gcd p.nativeClockHz p.outputSampleRate

/-- ACC_ONE, the threshold of the accumulator in scaled units (R40). -/
def accOne (p : Params) : Nat := 0x1000000 * ratioDen p

/-- DELTAN, what one output sample adds to the accumulator (R120, R121). -/
def deltaN (p : Params) (rate : BitVec 24) : Nat := rate.toNat * ratioNum p

/-! ## The mixer -/

/-- `sepHalf` (R221). -/
def sepHalf (separation : Int) : Int := tdiv (separation + 100) 2

/-- `gainPrimary` (R221). -/
def primaryGain (master separation : Int) : Int := tdiv (sepHalf separation * master) 100

/-- `gainCross` (R221). -/
def crossGain (master separation : Int) : Int := tdiv ((100 - sepHalf separation) * master) 100

/-- `MIX.MATRIX` (R212): each product divided on its own. -/
def mixMatrixOf (primary cross : Int) (orig : Stereo Int) : Stereo Int where
  left := tdiv (orig.left * primary) 100 + tdiv (orig.right * cross) 100
  right := tdiv (orig.right * primary) 100 + tdiv (orig.left * cross) 100

/-- The sum of the samples assigned to a bus (R210): plain integer addition. -/
def busTotal (bus : Bus) : List (Bus × Sample) → Int
  | [] => 0
  | (b, x) :: rest => (if b = bus then x.toInt else 0) + busTotal bus rest

/-- Both results clipped to 16 bits (R240). -/
def clipPair (m : Stereo Int) : Stereo Sample := ⟨sampleOfInt (clip16 m.left), sampleOfInt (clip16 m.right)⟩

/-! ## The serialised output (outside the block) -/

/-- A 16-bit value as two bytes (R65, parameter OUT_BYTE_ORDER). -/
def sampleBytes (order : ByteOrder) (x : Sample) : List Byte :=
  match order with
  | .little => [byteOf x 0, byteOf x 1]
  | .big => [byteOf x 1, byteOf x 0]

/-- The frames of a pass as the consumer stores them, interleaved, left first (R65, R102). -/
def frameBytes (order : ByteOrder) : List (Stereo Sample) → List Byte
  | [] => []
  | f :: rest => sampleBytes order f.left ++ sampleBytes order f.right ++ frameBytes order rest

/-- The frame count of a callback's byte length, `n = byteLength / 4` (R65, R270). -/
def framesOfByteLength (byteLength : Nat) : Nat := byteLength / 4

end Sys2Proof.Machine
end

