-- ==== Sys2Proof/Machine/Flags.lean ====
section
/-! DEFINITION. Flags.lean: the bits of `control` (spec/30_encoding.md R93) and the conditions computed from them. The
block has one status flag, `STP` (spec/10_state.md R24); no arithmetic of the block sets a flag (R240, R280). -/

namespace Sys2Proof.Machine

/-- `EN`, bit 7 (R22). -/
def enBit (ctl : Byte) : Bool := ctl.getLsbD 7

/-- `LOOP`, bit 6 (R23). -/
def loopBit (ctl : Byte) : Bool := ctl.getLsbD 6

/-- `STP`, bit 3, the stopped flag (R24). -/
def stpBit (ctl : Byte) : Bool := ctl.getLsbD 3

/-- The channel is STOPPED: `EN = 0` or `STP = 1` (R141, R144). -/
def stopped (ctl : Byte) : Bool := !enBit ctl || stpBit ctl

/-- The engine's only write to `control` (R26, R79, R152). -/
def withStp (ctl : Byte) : Byte := ctl ||| 0x08

/-- The end compare (R150): the low 16 bits of the advanced address equal `endAddress`. -/
def endMatch (advanced : Addr) (endAddress : BitVec 16) : Bool := advanced.setWidth 16 == endAddress

/-- The fetch must skip its read: its highest byte address is not a valid index (R175), on the unwrapped sum. -/
def beyondArray (memSize : Nat) (fmt : Format) (a : Addr) : Bool := decide (memSize ≤ a.toNat + stepBytes fmt - 1)

end Sys2Proof.Machine
end

