-- ==== Sys2Proof/Machine/State.lean ====
section
/-! DEFINITION. State.lean: everything the spec gives the machine (spec/10_state.md), as plain data, and its value at
reset. INVENTORY.md, State, lists each piece with its rule. -/

namespace Sys2Proof.Machine

/-- The emulated memory array (R60): address and byte pairs in the canonical form `Memory.Wf`. -/
abbrev Memory := List Host.Cell

/-- `PHASE[c]` (R43): between output samples, or inside the fetch loop of one. -/
inductive Phase where
  | ready | ticking
deriving DecidableEq, Repr

/-- One DMA channel: its register block and its engine's private state. -/
structure Channel where
  /-- REG[c] (R20) -/
  regs  : RegBlock
  /-- ACCN[c] (R40) -/
  accn  : Nat
  /-- LAST[c] (R42) -/
  last  : Sample
  /-- PHASE[c] (R43) -/
  phase : Phase
  /-- D[c]: samples emitted in the running pass that no frame has used, oldest first (R210, R270) -/
  out   : List Sample
deriving DecidableEq, Repr

/-- What one host read answered (R260): the value zero-extended to 24 bits. -/
structure HostRead where
  chan  : Chan
  field : RegField
  value : BitVec 24
deriving DecidableEq, Repr

/-- The machine. -/
structure State where
  /-- the parameters of R10, constant over a run -/
  params           : Params
  /-- the four DMA channels (R20, R292) -/
  chans            : PerChan Channel
  /-- masterVolume (R45) -/
  masterVolume     : Int
  /-- stereoSeparation (R45) -/
  stereoSeparation : Int
  /-- gainPrimary (R46) -/
  gainPrimary      : Int
  /-- gainCross (R46) -/
  gainCross        : Int
  /-- the emulated memory array (R60) -/
  mem              : Memory
  /-- X[k]: chip samples of the running pass that no frame has used, oldest first (R200, R270) -/
  chipQueues       : List (List Sample)
  /-- frames the running render pass has still to output; 0 when no pass runs (R270) -/
  framesLeft       : Nat
  /-- render requests that wait for the running pass to end (R270, log 12) -/
  requests         : List Nat
  /-- the bus sums last formed (R210, log 5) -/
  busSum           : Stereo Int
  /-- the matrix results last formed (R212, log 5) -/
  mixOut           : Stereo Int
  /-- the clipped results last formed (R240, log 5) -/
  clipOut          : Stereo Sample
  /-- port P7: the frames output, oldest first (R19, R245) -/
  frames           : List (Stereo Sample)
  /-- port P1: what the host has read back, oldest first (R19, R260) -/
  reads            : List HostRead
  /-- MODEL'S OWN: numbers the block's own steps, the argument of the free chip samples (log 16) -/
  ownSteps         : Nat
  /-- MODEL'S OWN: the bytes of the messages waiting at the ports, first to be handled first (log 1) -/
  inbox            : List Byte
  /-- MODEL'S OWN: bursts of messages that arrive when the block has nothing to do (log 2) -/
  later            : List (List Byte)
deriving DecidableEq, Repr

/-- The block raises nothing: "A model has no exception type for this block" (R280). No operation raises a fault, so
there is no constructor. -/
inductive Fault where
deriving DecidableEq, Repr

/-- Why a step answers no state. -/
inductive Refusal where
  /-- raised by an arm of `exec` whose operation has no meaning yet; no arm does. Safe. -/
  | notModelled (mnemonic : String)
  /-- raised by `step` when the bytes waiting are no message of the model's own encoding (log 22). Safe: no operation
  of the block was asked for. -/
  | badMessage (reason : DecodeError)
deriving DecidableEq, Repr

/-- One channel after reset (R55, R56, R310). -/
def Channel.initial (r : RegBlock) : Channel where
  regs := r
  accn := 0
  last := 0
  phase := .ready
  out := []

/-- The state `RESET` establishes under parameters `p` (R310), with nothing listed in memory. -/
def State.initial (p : Params) : State where
  params := p
  chans := p.regReset.map Channel.initial
  masterVolume := p.mvReset
  stereoSeparation := p.sepReset
  gainPrimary := primaryGain p.mvReset p.sepReset
  gainCross := crossGain p.mvReset p.sepReset
  mem := []
  chipQueues := p.chipBus.map fun _ => []
  framesLeft := 0
  requests := []
  busSum := ⟨0, 0⟩
  mixOut := ⟨0, 0⟩
  clipOut := ⟨0, 0⟩
  frames := []
  reads := []
  ownSteps := 0
  inbox := []
  later := []

/-- The machine right after reset, under the parameters of log 6. -/
def State.reset : State := State.initial Params.example

end Sys2Proof.Machine
end

