-- ==== Sys2Proof/Machine/Ops.lean ====
section
/-! DEFINITION. Ops.lean: the named operations over memory, channels and the render pass that the meanings are built
from. A channel operation is a function of one channel, the parameters and the memory: the engine of channel `c`
touches nothing else (spec/20_memory.md R75, spec/60_exceptions.md R292). -/

namespace Sys2Proof.Machine

/-! ## Memory -/

/-- What an address that is not listed reads as (log 10, DESIGN CHOICE: the spec gives the array no reset contents). -/
def Memory.fill : Byte := 0x00

/-- The byte at address `a`. -/
def Memory.read : Memory → Nat → Byte
  | [], _ => Memory.fill
  | (k, v) :: rest, a => if a = k then v else Memory.read rest a

/-- The memory with byte `b` at address `a`, in canonical form. -/
def Memory.write : Memory → Nat → Byte → Memory
  | [], a, b => if b = Memory.fill then [] else [(a, b)]
  | (k, v) :: rest, a, b =>
    if a < k then (if b = Memory.fill then (k, v) :: rest else (a, b) :: (k, v) :: rest)
    else if a = k then (if b = Memory.fill then rest else (a, b) :: rest)
    else (k, v) :: Memory.write rest a b

/-- The canonical form: addresses strictly rising, no entry equal to what an unlisted address reads as. -/
abbrev Memory.Wf (m : Memory) : Prop :=
  (m.map (·.1)).Pairwise (· < ·) ∧ ∀ cell ∈ m, cell.2 ≠ Memory.fill

/-- The canonical form, as a Bool. -/
def Memory.wf (m : Memory) : Bool := decide (Memory.Wf m)

/-! ## The fetch of one channel -/

/-- The raw pattern a fetch decodes (R170 to R175): silence when out of bounds, else the datum at `a`. -/
def fetchRaw (memSize : Nat) (m : Memory) (fmt : Format) (a : Addr) : Sample :=
  if beyondArray memSize fmt a then 0
  else
    match fmt with
    | .lo4 => rawLo4 (m.read a.toNat)
    | .hi4 => rawHi4 (m.read a.toNat)
    | .b8 => rawB8 (m.read a.toNat)
    | .w16 => rawW16 (m.read a.toNat) (m.read (a.toNat + 1))

/-- The advanced address, modulo 2^24 (R176). -/
def advance (fmt : Format) (a : Addr) : Addr := a + BitVec.ofNat 24 (stepBytes fmt)

/-- `END.LOOP` (R151): the pointer is loaded from `startAddress`. -/
def Channel.loopBack (ch : Channel) : Channel :=
  { ch with regs := { ch.regs with currentAddress := ch.regs.startAddress } }

/-- `END.STOP` (R152), the block's analogue of taking an exception (R287): the stopped flag is set, the held sample and
the accumulator are zeroed, and the pointer stays at the advanced address. -/
def Channel.naturalStop (ch : Channel) (advanced : Addr) : Channel :=
  { ch with
    regs := { ch.regs with control := withStp ch.regs.control, currentAddress := advanced }
    last := 0
    accn := 0 }

/-- The end of a fetch (R150 to R152): compare the advanced address, then loop, stop or just write it back. -/
def Channel.endCompare (ch : Channel) (advanced : Addr) : Channel :=
  if endMatch advanced ch.regs.endAddress then
    if loopBit ch.regs.control then ch.loopBack else ch.naturalStop advanced
  else { ch with regs := { ch.regs with currentAddress := advanced } }

/-- `FETCH(c)` (R170), from the live registers (R48, R143): decode, scale into `LAST`, advance, compare. -/
def Channel.fetch (p : Params) (m : Memory) (ch : Channel) : Channel :=
  let fmt := formatOf ch.regs.control
  let a := ch.regs.currentAddress
  let scaled := volScale p.rawInterp (fetchRaw p.memSize m fmt a) ch.regs.volume
  Channel.endCompare { ch with last := scaled } (advance fmt a)

/-- What the next fetch of the channel ends in, if it meets its end address: `some true` a loop, `some false` a stop. -/
def Channel.endsIn (ch : Channel) : Option Bool :=
  if endMatch (advance (formatOf ch.regs.control) ch.regs.currentAddress) ch.regs.endAddress
  then some (loopBit ch.regs.control) else none

/-! ## The steps of one channel -/

/-- `CH.IDLE` (R142): a STOPPED output sample. -/
def Channel.idle (ch : Channel) : Channel :=
  { ch with accn := 0, last := 0, phase := .ready, out := ch.out ++ [0] }

/-- `RC.ADD` (R121). -/
def Channel.rcAdd (p : Params) (ch : Channel) : Channel :=
  { ch with accn := ch.accn + deltaN p ch.regs.rateIncrement, phase := .ticking }

/-- `CH.BEGIN` (R141): the state test and the operation it selects. -/
def Channel.begin (p : Params) (ch : Channel) : Channel :=
  if stopped ch.regs.control then ch.idle else ch.rcAdd p

/-- `RC.TICK` (R122): the subtraction and the fetch. -/
def Channel.tick (p : Params) (m : Memory) (ch : Channel) : Channel :=
  Channel.fetch p m { ch with accn := ch.accn - accOne p }

/-- `CH.EMIT` (R124). -/
def Channel.emit (ch : Channel) : Channel :=
  { ch with phase := .ready, out := ch.out ++ [ch.last] }

/-- The ticks of one output sample (R123, R140): while `ACCN ≥ ACC_ONE`, at most `fuel` of them. -/
def Channel.ticks (p : Params) (m : Memory) : Nat → Channel → Channel
  | 0, ch => ch
  | fuel + 1, ch => if accOne p ≤ ch.accn then Channel.ticks p m fuel (ch.tick p m) else ch

/-- The PLAYING branch of `CH.STEP` after `RC.ADD` (R140). `ACCN / ACC_ONE` ticks are always enough (R123). -/
def Channel.finish (p : Params) (m : Memory) (ch : Channel) : Channel :=
  (Channel.ticks p m (ch.accn / accOne p) ch).emit

/-- `CH.STEP` (R140): one output sample of one channel with no step of another agent in between. -/
def Channel.step (p : Params) (m : Memory) (ch : Channel) : Channel :=
  if stopped ch.regs.control then ch.idle else Channel.finish p m (ch.rcAdd p)

/-! ## The state -/

/-- Channel `c`. -/
def State.chan (s : State) (c : Chan) : Channel := s.chans.get c

/-- The state with channel `c` replaced. -/
def State.setChan (s : State) (c : Chan) (ch : Channel) : State := { s with chans := s.chans.set c ch }

/-- The state with register block `c` replaced (R250: a host write touches nothing else). -/
def State.setRegs (s : State) (c : Chan) (r : RegBlock) : State := s.setChan c { s.chan c with regs := r }

/-- Take the step if it is enabled; an agent whose step is not enabled takes none (log 3). -/
def State.when (s : State) (enabled : Bool) (next : State) : Host.Outcome State Fault Refusal :=
  .next (if enabled then next else s)

/-- `CH.BEGIN` is enabled (R141, R270, R272; log 26): rendering, between output samples, and the running pass still owes an
output sample of this channel. -/
def State.canBegin (s : State) (c : Chan) : Bool :=
  s.params.renderEnabled && decide ((s.chan c).phase = .ready) && decide ((s.chan c).out.length < s.framesLeft)

/-- `RC.TICK` is enabled (R122, R272). -/
def State.canTick (s : State) (c : Chan) : Bool :=
  s.params.renderEnabled && decide ((s.chan c).phase = .ticking) && decide (accOne s.params ≤ (s.chan c).accn)

/-- `CH.EMIT` is enabled (R124, R272). -/
def State.canEmit (s : State) (c : Chan) : Bool :=
  s.params.renderEnabled && decide ((s.chan c).phase = .ticking) && decide ((s.chan c).accn < accOne s.params)

/-- The state after `CH.BEGIN` of channel `c`. -/
def State.beginChan (s : State) (c : Chan) : State := s.setChan c ((s.chan c).begin s.params)

/-- The state after `RC.TICK` of channel `c`. -/
def State.tickChan (s : State) (c : Chan) : State := s.setChan c ((s.chan c).tick s.params s.mem)

/-- `RC.TICK` of channel `c`, when it is enabled and its fetch reads the given format and loop bit (R110: FETCH.* is
selected inside RC.TICK by `control[1:0]`). -/
def State.fetchAs (s : State) (c : Chan) (fmt : Format) (ctl : Byte) : Host.Outcome State Fault Refusal :=
  s.when
    (s.canTick c && decide (formatOf (s.chan c).regs.control = fmt)
      && decide (loopBit (s.chan c).regs.control = loopBit ctl))
    (s.tickChan c)

/-! ## Chip sources, mixer and the render pass -/

/-- `SRC.IN` is enabled (R200, R270; log 26): source `k` exists and the running pass still owes a sample of it. -/
def State.canDraw (s : State) (k : Nat) : Bool :=
  s.params.renderEnabled &&
    match s.chipQueues[k]? with
    | some q => decide (q.length < s.framesLeft)
    | none => false

/-- The state after source `k` supplied sample `x` (R200). -/
def State.supply (s : State) (k : Nat) (x : Sample) : State :=
  { s with chipQueues := s.chipQueues.modify k (· ++ [x]) }

/-- The samples of the frame to be mixed next, each with its bus (R210): the four channels, then the chip sources. -/
def State.sources (s : State) : List (Bus × Sample) :=
  (s.params.chanBus.toList.zip (s.chans.toList.map fun ch => ch.out.headD 0))
    ++ s.params.chipBus.zip (s.chipQueues.map fun q => q.headD 0)

/-- `FRAME.OUT` is enabled (R76, R245): a frame is owed and every source has produced its sample. -/
def State.frameReady (s : State) : Bool :=
  s.params.renderEnabled && decide (0 < s.framesLeft)
    && s.chans.toList.all (fun ch => !ch.out.isEmpty) && s.chipQueues.all (fun q => !q.isEmpty)

/-- `MIX.SUM` (R210): form the bus sums. -/
def State.sumBuses (s : State) : State :=
  { s with busSum := ⟨busTotal .left s.sources, busTotal .right s.sources⟩ }

/-- `MIX.MATRIX` (R212): from the bus sums and the two gains. -/
def State.applyMatrix (s : State) : State :=
  { s with mixOut := mixMatrixOf s.gainPrimary s.gainCross s.busSum }

/-- `CLIP.S16` of one result (R240). -/
def State.clipSide (s : State) (side : Side) : State :=
  match side with
  | .left => { s with clipOut := { s.clipOut with left := sampleOfInt (clip16 s.mixOut.left) } }
  | .right => { s with clipOut := { s.clipOut with right := sampleOfInt (clip16 s.mixOut.right) } }

/-- The frame just formed leaves on port P7 and its samples are used up (R245). -/
def State.outputFrame (s : State) : State :=
  { s with
    frames := s.frames ++ [s.clipOut]
    chans := s.chans.map fun ch => { ch with out := ch.out.tail }
    chipQueues := s.chipQueues.map List.tail }

/-- What a consumer of port P7 that stores the frames as bytes holds (R65, outside the block). -/
def State.outputBytes (s : State) : List Byte := frameBytes s.params.outByteOrder s.frames

/-- One frame of the pass is done; when it was the last, the next waiting request becomes the running pass (R270:
"a new RENDER begins only after the previous one is complete"). -/
def State.passAdvance (s : State) : State :=
  if s.framesLeft ≤ 1 then
    match s.requests with
    | [] => { s with framesLeft := 0 }
    | n :: rest => { s with framesLeft := n, requests := rest }
  else { s with framesLeft := s.framesLeft - 1 }

/-- `FRAME.OUT` (R245): sum, matrix, clip both, output, as one step. -/
def State.frameStep (s : State) : State :=
  ((((s.sumBuses.applyMatrix).clipSide .left).clipSide .right).outputFrame).passAdvance

/-- `GAIN.UPDATE` (R221). -/
def State.updateGains (s : State) : State :=
  { s with
    gainPrimary := primaryGain s.masterVolume s.stereoSeparation
    gainCross := crossGain s.masterVolume s.stereoSeparation }

/-- The stores of `CFG.SET` (R220): an UNCHANGED argument keeps the value, an integer is clamped. -/
def State.storeConfig (s : State) (volume separation : Option Int) : State :=
  { s with
    masterVolume := match volume with
      | none => s.masterVolume
      | some v => clamp v 0 100
    stereoSeparation := match separation with
      | none => s.stereoSeparation
      | some x => clamp x (-100) 100 }

/-- `RENDER n` (R270, R272): nothing when rendering is disabled or `n = 0`; the pass begins at once when none is
running, else the request waits (log 12). -/
def State.requestFrames (s : State) (n : Nat) : State :=
  if s.params.renderEnabled = false ∨ n = 0 then s
  else if s.framesLeft = 0 then { s with framesLeft := n }
  else { s with requests := s.requests ++ [n] }

/-- A host write of one memory byte (R264). An address outside the array is none of the block's (log 11). -/
def State.hostStore (s : State) (a : Nat) (b : Byte) : State :=
  if a < s.params.memSize then { s with mem := s.mem.write a b } else s

/-- A host write of one byte of a register block (R262). -/
def State.hostByte (s : State) (c : Chan) (off : Nat) (b : Byte) : State :=
  s.setRegs c (writeByteAt (s.chan c).regs off b)

/-- `RESET` (R310): the initial state under the same parameters. The memory array and what waits at the ports are the
outside's and stay. -/
def State.restart (s : State) : State :=
  { State.initial s.params with mem := s.mem, inbox := s.inbox, later := s.later, ownSteps := s.ownSteps }

end Sys2Proof.Machine
end

