-- ==== Sys2Proof/Machine/ChannelOps.lean ====
section
/-! DEFINITION. ChannelOps.lean: the operations of the agents CH[c] (spec/40_rate_converter.md,
spec/41_dma_channel_engine.md, spec/42_dma_sample_decoder.md). The atomic steps are CH.BEGIN, RC.TICK and CH.EMIT (R17,
R68, R122, R141). An operation that the spec performs only inside one of them is that step, enabled when the step is
the one that performs it (log 4). -/

namespace Sys2Proof.Machine

/-- `CH.IDLE`, row 1 (R142): `CH.BEGIN` of a channel with `EN = 0`. -/
def execChIdleDisabled (c : Chan) (_ctl : Byte) (s : State) : Host.Outcome State Fault Refusal :=
  s.when (s.canBegin c && decide (ctrlClass (s.chan c).regs.control = .idleDisabled)) (s.beginChan c)

/-- `CH.IDLE`, row 2 (R142): `CH.BEGIN` of a channel with `EN = 1` and `STP = 1`. -/
def execChIdleStopped (c : Chan) (_ctl : Byte) (s : State) : Host.Outcome State Fault Refusal :=
  s.when (s.canBegin c && decide (ctrlClass (s.chan c).regs.control = .idleStopped)) (s.beginChan c)

/-- `FETCH.LO4` (R171), inside its `RC.TICK`. -/
def execFetchLo4 (c : Chan) (ctl : Byte) (s : State) : Host.Outcome State Fault Refusal := s.fetchAs c .lo4 ctl

/-- `FETCH.HI4` (R172), inside its `RC.TICK`. -/
def execFetchHi4 (c : Chan) (ctl : Byte) (s : State) : Host.Outcome State Fault Refusal := s.fetchAs c .hi4 ctl

/-- `FETCH.B8` (R173), inside its `RC.TICK`. -/
def execFetchB8 (c : Chan) (ctl : Byte) (s : State) : Host.Outcome State Fault Refusal := s.fetchAs c .b8 ctl

/-- `FETCH.W16` (R174), inside its `RC.TICK`. -/
def execFetchW16 (c : Chan) (ctl : Byte) (s : State) : Host.Outcome State Fault Refusal := s.fetchAs c .w16 ctl

/-- `CH.STEP` (R140): the whole output sample, with no other agent's step in between (log 15). -/
def execChStep (c : Chan) (s : State) : Host.Outcome State Fault Refusal :=
  s.when (s.canBegin c) (s.setChan c ((s.chan c).step s.params s.mem))

/-- `CH.BEGIN` (R141). -/
def execChBegin (c : Chan) (s : State) : Host.Outcome State Fault Refusal :=
  s.when (s.canBegin c) (s.beginChan c)

/-- `RC.ADD` (R121): `CH.BEGIN` of a PLAYING channel. -/
def execRcAdd (c : Chan) (s : State) : Host.Outcome State Fault Refusal :=
  s.when (s.canBegin c && !stopped (s.chan c).regs.control) (s.beginChan c)

/-- `RC.TICK` (R122). -/
def execRcTick (c : Chan) (s : State) : Host.Outcome State Fault Refusal :=
  s.when (s.canTick c) (s.tickChan c)

/-- `CH.EMIT` (R124). -/
def execChEmit (c : Chan) (s : State) : Host.Outcome State Fault Refusal :=
  s.when (s.canEmit c) (s.setChan c (s.chan c).emit)

/-- `VOL.SCALE` (R180), performed in every fetch: the fetch's `RC.TICK`. -/
def execVolScale (c : Chan) (s : State) : Host.Outcome State Fault Refusal :=
  s.when (s.canTick c) (s.tickChan c)

/-- `END.LOOP` (R151): the `RC.TICK` whose fetch meets its end address with `LOOP = 1`. -/
def execEndLoop (c : Chan) (s : State) : Host.Outcome State Fault Refusal :=
  s.when (s.canTick c && decide ((s.chan c).endsIn = some true)) (s.tickChan c)

/-- `END.STOP` (R152): the `RC.TICK` whose fetch meets its end address with `LOOP = 0`. -/
def execEndStop (c : Chan) (s : State) : Host.Outcome State Fault Refusal :=
  s.when (s.canTick c && decide ((s.chan c).endsIn = some false)) (s.tickChan c)

end Sys2Proof.Machine
end

