-- ==== Sys2Proof/Machine/HostOps.lean ====
section
/-! DEFINITION. HostOps.lean: the operations of the host, the sink and the outside world
(spec/46_host_ops_and_render_pass.md, spec/70_reset_and_hazards.md R310). A host write stores and does nothing else
(R250); every operation is available at any time (R265, R286). -/

namespace Sys2Proof.Machine

/-- `HW.CONTROL` (R251). -/
def execHwControl (c : Chan) (v : Nat) (s : State) : Host.Outcome State Fault Refusal :=
  .next (s.setRegs c (writeField (s.chan c).regs .control v))

/-- `HW.START` (R252). -/
def execHwStart (c : Chan) (v : Nat) (s : State) : Host.Outcome State Fault Refusal :=
  .next (s.setRegs c (writeField (s.chan c).regs .startAddress v))

/-- `HW.RATE` (R253). -/
def execHwRate (c : Chan) (v : Nat) (s : State) : Host.Outcome State Fault Refusal :=
  .next (s.setRegs c (writeField (s.chan c).regs .rateIncrement v))

/-- `HW.END` (R254). -/
def execHwEnd (c : Chan) (v : Nat) (s : State) : Host.Outcome State Fault Refusal :=
  .next (s.setRegs c (writeField (s.chan c).regs .endAddress v))

/-- `HW.VOLUME` (R255). -/
def execHwVolume (c : Chan) (v : Nat) (s : State) : Host.Outcome State Fault Refusal :=
  .next (s.setRegs c (writeField (s.chan c).regs .volume v))

/-- `HW.CURRENT` (R256). -/
def execHwCurrent (c : Chan) (v : Nat) (s : State) : Host.Outcome State Fault Refusal :=
  .next (s.setRegs c (writeField (s.chan c).regs .currentAddress v))

/-- `HW.BYTE@0x0` (R262). -/
def execHwByte0 (c : Chan) (b : Byte) (s : State) : Host.Outcome State Fault Refusal := .next (s.hostByte c 0x0 b)

/-- `HW.BYTE@0x1` (R262). -/
def execHwByte1 (c : Chan) (b : Byte) (s : State) : Host.Outcome State Fault Refusal := .next (s.hostByte c 0x1 b)

/-- `HW.BYTE@0x2` (R262). -/
def execHwByte2 (c : Chan) (b : Byte) (s : State) : Host.Outcome State Fault Refusal := .next (s.hostByte c 0x2 b)

/-- `HW.BYTE@0x3` (R262). -/
def execHwByte3 (c : Chan) (b : Byte) (s : State) : Host.Outcome State Fault Refusal := .next (s.hostByte c 0x3 b)

/-- `HW.BYTE@0x4` (R262). -/
def execHwByte4 (c : Chan) (b : Byte) (s : State) : Host.Outcome State Fault Refusal := .next (s.hostByte c 0x4 b)

/-- `HW.BYTE@0x5` (R262). -/
def execHwByte5 (c : Chan) (b : Byte) (s : State) : Host.Outcome State Fault Refusal := .next (s.hostByte c 0x5 b)

/-- `HW.BYTE@0x6` (R262). -/
def execHwByte6 (c : Chan) (b : Byte) (s : State) : Host.Outcome State Fault Refusal := .next (s.hostByte c 0x6 b)

/-- `HW.BYTE@0x7` (R262). -/
def execHwByte7 (c : Chan) (b : Byte) (s : State) : Host.Outcome State Fault Refusal := .next (s.hostByte c 0x7 b)

/-- `HW.BYTE@0x8` (R262). -/
def execHwByte8 (c : Chan) (b : Byte) (s : State) : Host.Outcome State Fault Refusal := .next (s.hostByte c 0x8 b)

/-- `HW.BYTE@0x9` (R262). -/
def execHwByte9 (c : Chan) (b : Byte) (s : State) : Host.Outcome State Fault Refusal := .next (s.hostByte c 0x9 b)

/-- `HW.BYTE@0xA` (R262). -/
def execHwByteA (c : Chan) (b : Byte) (s : State) : Host.Outcome State Fault Refusal := .next (s.hostByte c 0xA b)

/-- `HW.BYTE@0xB` (R262). -/
def execHwByteB (c : Chan) (b : Byte) (s : State) : Host.Outcome State Fault Refusal := .next (s.hostByte c 0xB b)

/-- `HW.BYTE@0xC` (R262). -/
def execHwByteC (c : Chan) (b : Byte) (s : State) : Host.Outcome State Fault Refusal := .next (s.hostByte c 0xC b)

/-- `NONE@0xD`: not part of the block, "a write there is outside this spec and changes nothing in it" (R262). -/
def execNoneD (_c : Chan) (_b : Byte) (s : State) : Host.Outcome State Fault Refusal := .next s

/-- `NONE@0xE`: not part of the block, "a write there is outside this spec and changes nothing in it" (R262). -/
def execNoneE (_c : Chan) (_b : Byte) (s : State) : Host.Outcome State Fault Refusal := .next s

/-- `NONE@0xF`: not part of the block, "a write there is outside this spec and changes nothing in it" (R262). -/
def execNoneF (_c : Chan) (_b : Byte) (s : State) : Host.Outcome State Fault Refusal := .next s

/-- `HW.BYTE` (R262) at I/O address `REG_BASE[c] + off`: the block and offset the address names take the byte; an address
in no block changes nothing (R69, R103 b; log 18). -/
def execHwByte (ioAddr : Nat) (b : Byte) (s : State) : Host.Outcome State Fault Refusal :=
  match ioDecode s.params ioAddr with
  | some (c, off) => .next (s.hostByte c off b)
  | none => .next s

/-- `HR.FIELD` (R260): the value is handed to the host; nothing else changes. -/
def execHrField (c : Chan) (f : RegField) (s : State) : Host.Outcome State Fault Refusal :=
  .next { s with reads := s.reads ++ [⟨c, f, readFieldValue (s.chan c).regs f⟩] }

/-- `MEM.WR` (R264). -/
def execMemWr (a : Nat) (b : Byte) (s : State) : Host.Outcome State Fault Refusal := .next (s.hostStore a b)

/-- `RENDER n` (R270): opens the pass whose steps the other agents then take (log 14). -/
def execRender (n : Nat) (s : State) : Host.Outcome State Fault Refusal := .next (s.requestFrames n)

/-- `RESET` (R310). -/
def execReset (s : State) : Host.Outcome State Fault Refusal := .next s.restart

end Sys2Proof.Machine
end

