-- ==== Sys2Proof/Machine/MixerOps.lean ====
section
/-! DEFINITION. MixerOps.lean: the operations of the agents SRC[k], MIX and CFG (spec/43_chip_source_adapter.md,
spec/44_audio_mixer_router.md, spec/45_output_clipper.md). `FRAME.OUT` is the atomic step of MIX; its three parts can
also be run alone, and then form their intermediate pair and nothing else (log 5). -/

namespace Sys2Proof.Machine

/-- `SRC.IN` (R200): source `k` supplies the drawn sample `x`. -/
def execSrcIn (k : Nat) (x : Sample) (s : State) : Host.Outcome State Fault Refusal :=
  s.when (s.canDraw k) (s.supply k x)

/-- `MIX.SUM` (R210), for the frame to be output next. -/
def execMixSum (s : State) : Host.Outcome State Fault Refusal := s.when s.frameReady s.sumBuses

/-- `MIX.MATRIX` (R212), of the bus sums last formed. -/
def execMixMatrix (s : State) : Host.Outcome State Fault Refusal := s.when s.params.renderEnabled s.applyMatrix

/-- `CLIP.S16` (R240), of one of the matrix results last formed. -/
def execClipS16 (side : Side) (s : State) : Host.Outcome State Fault Refusal :=
  s.when s.params.renderEnabled (s.clipSide side)

/-- `FRAME.OUT` (R245). -/
def execFrameOut (s : State) : Host.Outcome State Fault Refusal := s.when s.frameReady s.frameStep

/-- `CFG.SET` (R220): the stores and `GAIN.UPDATE`, one atomic step. -/
def execCfgSet (volume separation : Option Int) (s : State) : Host.Outcome State Fault Refusal :=
  .next (s.storeConfig volume separation).updateGains

/-- `GAIN.UPDATE` (R221). -/
def execGainUpdate (s : State) : Host.Outcome State Fault Refusal := .next s.updateGains

end Sys2Proof.Machine
end

