-- ==== Sys2Proof/Machine/Dispatch.lean ====
section
/-! DEFINITION. Dispatch.lean: each operation of the opcode table and its meaning. -/

namespace Sys2Proof.Machine

/-- The meaning of one operation. -/
def exec (i : Instr) (s : State) : Host.Outcome State Fault Refusal :=
  match i with
  | .chIdleDisabled c ctl => Sys2Proof.Machine.execChIdleDisabled c ctl s
  | .chIdleStopped c ctl => Sys2Proof.Machine.execChIdleStopped c ctl s
  | .fetchLo4 c ctl => Sys2Proof.Machine.execFetchLo4 c ctl s
  | .fetchHi4 c ctl => Sys2Proof.Machine.execFetchHi4 c ctl s
  | .fetchB8 c ctl => Sys2Proof.Machine.execFetchB8 c ctl s
  | .fetchW16 c ctl => Sys2Proof.Machine.execFetchW16 c ctl s
  | .hwByte0 c b => Sys2Proof.Machine.execHwByte0 c b s
  | .hwByte1 c b => Sys2Proof.Machine.execHwByte1 c b s
  | .hwByte2 c b => Sys2Proof.Machine.execHwByte2 c b s
  | .hwByte3 c b => Sys2Proof.Machine.execHwByte3 c b s
  | .hwByte4 c b => Sys2Proof.Machine.execHwByte4 c b s
  | .hwByte5 c b => Sys2Proof.Machine.execHwByte5 c b s
  | .hwByte6 c b => Sys2Proof.Machine.execHwByte6 c b s
  | .hwByte7 c b => Sys2Proof.Machine.execHwByte7 c b s
  | .hwByte8 c b => Sys2Proof.Machine.execHwByte8 c b s
  | .hwByte9 c b => Sys2Proof.Machine.execHwByte9 c b s
  | .hwByteA c b => Sys2Proof.Machine.execHwByteA c b s
  | .hwByteB c b => Sys2Proof.Machine.execHwByteB c b s
  | .hwByteC c b => Sys2Proof.Machine.execHwByteC c b s
  | .noneD c b => Sys2Proof.Machine.execNoneD c b s
  | .noneE c b => Sys2Proof.Machine.execNoneE c b s
  | .noneF c b => Sys2Proof.Machine.execNoneF c b s
  | .chStep c => Sys2Proof.Machine.execChStep c s
  | .chBegin c => Sys2Proof.Machine.execChBegin c s
  | .rcAdd c => Sys2Proof.Machine.execRcAdd c s
  | .rcTick c => Sys2Proof.Machine.execRcTick c s
  | .chEmit c => Sys2Proof.Machine.execChEmit c s
  | .volScale c => Sys2Proof.Machine.execVolScale c s
  | .endLoop c => Sys2Proof.Machine.execEndLoop c s
  | .endStop c => Sys2Proof.Machine.execEndStop c s
  | .srcIn k x => Sys2Proof.Machine.execSrcIn k x s
  | .mixSum => Sys2Proof.Machine.execMixSum s
  | .mixMatrix => Sys2Proof.Machine.execMixMatrix s
  | .clipS16 side => Sys2Proof.Machine.execClipS16 side s
  | .frameOut => Sys2Proof.Machine.execFrameOut s
  | .cfgSet v sep => Sys2Proof.Machine.execCfgSet v sep s
  | .gainUpdate => Sys2Proof.Machine.execGainUpdate s
  | .hwControl c v => Sys2Proof.Machine.execHwControl c v s
  | .hwStart c v => Sys2Proof.Machine.execHwStart c v s
  | .hwRate c v => Sys2Proof.Machine.execHwRate c v s
  | .hwEnd c v => Sys2Proof.Machine.execHwEnd c v s
  | .hwVolume c v => Sys2Proof.Machine.execHwVolume c v s
  | .hwCurrent c v => Sys2Proof.Machine.execHwCurrent c v s
  | .hwByte a b => Sys2Proof.Machine.execHwByte a b s
  | .hrField c f => Sys2Proof.Machine.execHrField c f s
  | .memWr a b => Sys2Proof.Machine.execMemWr a b s
  | .render n => Sys2Proof.Machine.execRender n s
  | .reset => Sys2Proof.Machine.execReset s

end Sys2Proof.Machine
end

