-- ==== Sys2Proof/Machine/Sequencer.lean ====
section
/-! DEFINITION. Sequencer.lean: the block's own next operation while a render pass runs and no message waits (log 2).
The pass is the composition of R270; the order among agents is free and unobservable without a host step in between
(spec/20_memory.md R75, R76), so one fixed order stands for all: the channels 0 to 3, then the chip sources, then the
frame. Any other order is given by messages. -/

namespace Sys2Proof.Machine

/-- The next operation of channel `c` towards its sample of the frame to come: the next step of its `CH.STEP` (R140),
or none when the sample is there. -/
def State.ownOfChan (s : State) (c : Chan) : Option Instr :=
  match (s.chan c).phase with
  | .ticking => if accOne s.params ≤ (s.chan c).accn then some (.rcTick c) else some (.chEmit c)
  | .ready => if (s.chan c).out.isEmpty then some (.chBegin c) else none

/-- The first chip source, from `k` on, that has no sample for the frame to come. -/
def firstEmpty : Nat → List (List Sample) → Option Nat
  | _, [] => none
  | k, q :: rest => if q.isEmpty then some k else firstEmpty (k + 1) rest

/-- The block's own next operation: none unless a pass runs (R270, R272, R311). A chip sample no message supplied is a
free value (R200, log 16). -/
def State.nextOwn (s : State) : Option Instr :=
  if s.params.renderEnabled = false ∨ s.framesLeft = 0 then none
  else
    match s.ownOfChan .c0, s.ownOfChan .c1, s.ownOfChan .c2, s.ownOfChan .c3 with
    | some i, _, _, _ => some i
    | none, some i, _, _ => some i
    | none, none, some i, _ => some i
    | none, none, none, some i => some i
    | none, none, none, none =>
      match firstEmpty 0 s.chipQueues with
      | some k => some (.srcIn k (Config.chipDraw s.ownSteps))
      | none => some .frameOut

/-- The state in which the block takes an own step: the step is numbered. -/
def State.countOwn (s : State) : State := { s with ownSteps := s.ownSteps + 1 }

/-- The next message at the ports (log 1). -/
def State.nextMessage (s : State) : Read Instr := decode s.inbox

/-- The state with the bytes left after a message. -/
def State.withInbox (s : State) (rest : List Byte) : State := { s with inbox := rest }

/-- The next burst of messages arrives; with none to come the block stays as it is (R311). -/
def State.arrive (s : State) : State :=
  match s.later with
  | [] => s
  | burst :: rest => { s with inbox := burst, later := rest }

end Sys2Proof.Machine
end

