-- ==== Sys2Proof/Machine/Step.lean ====
section
/-! DEFINITION. Step.lean: one step of the machine (log 1, log 2). A message waiting at the ports is handled first, so
that it may land between any two atomic steps of the block; with none waiting the block takes its own next step; with
nothing to do either, the next burst of messages arrives. -/

namespace Sys2Proof.Machine

/-- One step. -/
def step (s : State) : Host.Outcome State Fault Refusal :=
  match s.inbox with
  | [] =>
    match s.nextOwn with
    | some i => exec i s.countOwn
    | none => .next s.arrive
  | _ :: _ =>
    match s.nextMessage with
    | .ok (i, rest) => exec i (s.withInbox rest)
    | .error e => .refused (.badMessage e)

/-- The state in which the message that a word of the opcode table begins is the one that waits at the ports. -/
def State.withFetchWord (s : State) (nbits w : Nat) : State := s.withInbox (tableMessage nbits w)

end Sys2Proof.Machine
end

