-- ==== Sys2Proof/Machine/Driver.lean ====
section
/-! DEFINITION. Driver.lean: the driver notation of spec/30_encoding.md R112 and its pseudo-operations (R113), as the
operations they stand for and as a burst of messages. -/

namespace Sys2Proof.Machine

/-- A line of the driver notation (R112, R113). -/
inductive DriverLine where
  /-- `W c.field, v` -/
  | write (c : Chan) (f : RegField) (v : Nat)
  /-- `WB c+off, b` -/
  | writeByte (c : Chan) (off : Nat) (b : Byte)
  /-- `R c.field` -/
  | read (c : Chan) (f : RegField)
  /-- `MEMW a, b0 b1 ...` -/
  | memWrite (a : Nat) (bytes : List Byte)
  /-- `CFG v, s`; `none` for `-` -/
  | cfg (v sep : Option Int)
  /-- `RENDER n` -/
  | render (n : Nat)
  /-- `SRC k: x0 x1 ...` -/
  | src (k : Nat) (xs : List Sample)
  /-- `PROG c, start, end, rate, vol, cur` -/
  | prog (c : Chan) (start endAddr rate vol cur : Nat)
  /-- `ENABLE c, fmt, loop` -/
  | enable (c : Chan) (fmt loop : Nat)
  /-- `DISABLE c` -/
  | disable (c : Chan)
deriving DecidableEq, Repr

/-- The field write of a field (R251 to R256). -/
def fieldWrite (c : Chan) (f : RegField) (v : Nat) : Instr :=
  match f with
  | .control => .hwControl c v
  | .startAddress => .hwStart c v
  | .rateIncrement => .hwRate c v
  | .endAddress => .hwEnd c v
  | .volume => .hwVolume c v
  | .currentAddress => .hwCurrent c v

/-- One `MEM.WR` per byte, at consecutive addresses (R112). -/
def memWrites : Nat → List Byte → List Instr
  | _, [] => []
  | a, b :: rest => .memWr a b :: memWrites (a + 1) rest

/-- The operations a line stands for (R112, R113), under the parameters that place the register blocks. -/
def DriverLine.instrs (p : Params) : DriverLine → List Instr
  | .write c f v => [fieldWrite c f v]
  | .writeByte c off b => [.hwByte (ioAddress p c off) b]
  | .read c f => [.hrField c f]
  | .memWrite a bytes => memWrites a bytes
  | .cfg v sep => [.cfgSet v sep]
  | .render n => [.render n]
  | .src k xs => xs.map fun x => .srcIn k x
  | .prog c start endAddr rate vol cur =>
    [.hwStart c start, .hwEnd c endAddr, .hwRate c rate, .hwVolume c vol, .hwCurrent c cur]
  | .enable c fmt loop => [.hwControl c (0x80 ||| (loop <<< 6) ||| fmt)]
  | .disable c => [.hwControl c 0x00]

/-- The render request of a callback that asks for `byteLength` bytes (R65, R270). -/
def callbackRender (byteLength : Nat) : Instr := .render (framesOfByteLength byteLength)

/-- The operations of a program, cut into the bursts of a host that performs "all its steps between render passes"
(spec/95_test_vectors.md L3): a burst ends with a `RENDER` and the samples its `SRC` lines supply for that pass. `now`
are the operations of the burst so far, `srcs` the samples waiting for the next `RENDER`. -/
def cutProgram (p : Params) : List Instr → List Instr → List DriverLine → List (List Instr)
  | now, _, [] => [now]
  | now, srcs, .src k xs :: rest => cutProgram p now (srcs ++ xs.map fun x => .srcIn k x) rest
  | now, srcs, .render n :: rest => (now ++ .render n :: srcs) :: cutProgram p [] [] rest
  | now, srcs, l :: rest => cutProgram p (now ++ l.instrs p) srcs rest

/-- The messages of a list of operations, one after another. -/
def burstOf : List Instr → List Byte
  | [] => []
  | i :: rest => encode i ++ burstOf rest

/-- The state with a program of the driver notation waiting to arrive, burst by burst. -/
def State.withProgram (s : State) (program : List DriverLine) : State :=
  { s with later := (cutProgram s.params [] [] program).map burstOf }

end Sys2Proof.Machine
end

