-- ==== Sys2Proof/Safety.lean ====
section
/-! DEFINITION. Safety.lean: the terms the claims are stated in: the invariant of the machine, when each agent's step
is enabled, what an operation leaves alone, and the spec's arithmetic on plain numbers. -/

namespace Sys2Proof.Machine

/-! ## The invariant -/

/-- Two 13-byte register blocks do not overlap (R69). -/
abbrev blocksApart (a b : Nat) : Prop := a + 13 ≤ b ∨ b + 13 ≤ a

/-- The parameters lie in the ranges of R10. -/
abbrev ParamsWf (p : Params) : Prop :=
  0 < p.nativeClockHz ∧ 0 < p.outputSampleRate ∧ p.memSize ≤ 0x1000000
  ∧ 0 ≤ p.mvReset ∧ p.mvReset ≤ 100 ∧ -100 ≤ p.sepReset ∧ p.sepReset ≤ 100
  ∧ blocksApart p.regBase.c0 p.regBase.c1 ∧ blocksApart p.regBase.c0 p.regBase.c2
  ∧ blocksApart p.regBase.c0 p.regBase.c3 ∧ blocksApart p.regBase.c1 p.regBase.c2
  ∧ blocksApart p.regBase.c1 p.regBase.c3 ∧ blocksApart p.regBase.c2 p.regBase.c3

/-- A channel in a run with `left` frames to output: the accumulator is below the threshold between output samples and
bounded inside one (R41), and the channel has not run ahead of the pass (R76, R270). -/
abbrev ChannelInv (p : Params) (left : Nat) (ch : Channel) : Prop :=
  (ch.phase = .ready → ch.accn < accOne p)
  ∧ ch.accn ≤ accOne p - 1 + 0xFFFFFF * ratioNum p
  ∧ ch.out.length + (if ch.phase = .ticking then 1 else 0) ≤ left

/-- The invariant of the machine: parameters in range (R10); every channel as above; memory canonical and inside the
array (R60); the configuration in range and the gains derived from it (R45, R46); a queue for each chip source, none
ahead of the pass (R200, R270); render requests wait only behind a running pass; none when rendering is disabled
(R272). -/
abbrev StateInv (s : State) : Prop :=
  ParamsWf s.params
  ∧ s.chans.Forall (ChannelInv s.params s.framesLeft)
  ∧ s.mem.Wf ∧ (∀ cell ∈ s.mem, cell.1 < s.params.memSize)
  ∧ 0 ≤ s.masterVolume ∧ s.masterVolume ≤ 100
  ∧ -100 ≤ s.stereoSeparation ∧ s.stereoSeparation ≤ 100
  ∧ s.gainPrimary = primaryGain s.masterVolume s.stereoSeparation
  ∧ s.gainCross = crossGain s.masterVolume s.stereoSeparation
  ∧ s.chipQueues.length = s.params.kChip
  ∧ (∀ q ∈ s.chipQueues, q.length ≤ s.framesLeft)
  ∧ (∀ n ∈ s.requests, 0 < n)
  ∧ (s.framesLeft = 0 → s.requests = [])
  ∧ (s.params.renderEnabled = false → s.framesLeft = 0)

/-! ## When a step is enabled -/

/-- `CH.BEGIN` of channel `c` may be taken (R141, R270, R272). -/
abbrev OwesSample (s : State) (c : Chan) : Prop :=
  s.params.renderEnabled = true ∧ (s.chan c).phase = .ready ∧ (s.chan c).out.length < s.framesLeft

/-- `RC.TICK` of channel `c` may be taken (R122, R272). -/
abbrev OwesTick (s : State) (c : Chan) : Prop :=
  s.params.renderEnabled = true ∧ (s.chan c).phase = .ticking ∧ accOne s.params ≤ (s.chan c).accn

/-- `CH.EMIT` of channel `c` may be taken (R124, R272). -/
abbrev OwesEmit (s : State) (c : Chan) : Prop :=
  s.params.renderEnabled = true ∧ (s.chan c).phase = .ticking ∧ (s.chan c).accn < accOne s.params

/-- `FRAME.OUT` may be taken (R76, R245, R272). -/
abbrev OwesFrame (s : State) : Prop :=
  s.params.renderEnabled = true ∧ 0 < s.framesLeft
  ∧ s.chans.Forall (fun ch => ch.out ≠ []) ∧ (∀ q ∈ s.chipQueues, q ≠ [])

/-- `SRC.IN` of source `k`, whose waiting samples are `q`, may be taken (R200, R270, R272). -/
abbrev OwesDraw (s : State) (k : Nat) (q : List Sample) : Prop :=
  s.params.renderEnabled = true ∧ s.chipQueues[k]? = some q ∧ q.length < s.framesLeft

/-! ## What an operation leaves alone -/

/-- `t` differs from `s` in channel `c` at most. -/
abbrev OnlyChannel (c : Chan) (s t : State) : Prop :=
  (∀ d, d ≠ c → t.chan d = s.chan d) ∧ t = { s with chans := t.chans }

/-- The channel whose agent performs the operation (R110, column "agent"). -/
def channelOf : Instr → Option Chan
  | .chIdleDisabled c _ | .chIdleStopped c _ => some c
  | .fetchLo4 c _ | .fetchHi4 c _ | .fetchB8 c _ | .fetchW16 c _ => some c
  | .chStep c | .chBegin c | .rcAdd c | .rcTick c | .chEmit c | .volScale c | .endLoop c | .endStop c => some c
  | .hwByte0 _ _ | .hwByte1 _ _ | .hwByte2 _ _ | .hwByte3 _ _ | .hwByte4 _ _ | .hwByte5 _ _ | .hwByte6 _ _
  | .hwByte7 _ _ | .hwByte8 _ _ | .hwByte9 _ _ | .hwByteA _ _ | .hwByteB _ _ | .hwByteC _ _ => none
  | .noneD _ _ | .noneE _ _ | .noneF _ _ => none
  | .srcIn _ _ | .mixSum | .mixMatrix | .clipS16 _ | .frameOut | .cfgSet _ _ | .gainUpdate => none
  | .hwControl _ _ | .hwStart _ _ | .hwRate _ _ | .hwEnd _ _ | .hwVolume _ _ | .hwCurrent _ _ => none
  | .hwByte _ _ | .hrField _ _ | .memWr _ _ | .render _ | .reset => none

/-- The block and offset a host byte write goes to, if it goes to one (R262). -/
def byteWriteTarget (p : Params) : Instr → Option (Chan × Nat)
  | .hwByte0 c _ => some (c, 0x0)
  | .hwByte1 c _ => some (c, 0x1)
  | .hwByte2 c _ => some (c, 0x2)
  | .hwByte3 c _ => some (c, 0x3)
  | .hwByte4 c _ => some (c, 0x4)
  | .hwByte5 c _ => some (c, 0x5)
  | .hwByte6 c _ => some (c, 0x6)
  | .hwByte7 c _ => some (c, 0x7)
  | .hwByte8 c _ => some (c, 0x8)
  | .hwByte9 c _ => some (c, 0x9)
  | .hwByteA c _ => some (c, 0xA)
  | .hwByteB c _ => some (c, 0xB)
  | .hwByteC c _ => some (c, 0xC)
  | .hwByte a _ => ioDecode p a
  | _ => none

/-- The offsets of a field within its block (R91). -/
def fieldOffsets : RegField → List Nat
  | .control => [0x0]
  | .startAddress => [0x1, 0x2, 0x3]
  | .rateIncrement => [0x4, 0x5, 0x6]
  | .endAddress => [0x7, 0x8]
  | .volume => [0x9]
  | .currentAddress => [0xA, 0xB, 0xC]

/-- The operation is a host write that may change field `f` of channel `c` (R250, R262). -/
def hostWrites (p : Params) (i : Instr) (c : Chan) (f : RegField) : Prop :=
  (∃ v, i = fieldWrite c f v) ∨ (∃ off, off ∈ fieldOffsets f ∧ byteWriteTarget p i = some (c, off))

/-- Operations taken one after another, until one answers no next state. -/
def execAll : List Instr → State → Host.Outcome State Fault Refusal
  | [], s => .next s
  | i :: rest, s =>
    match exec i s with
    | .next t => execAll rest t
    | .fault f => .fault f
    | .refused r => .refused r

/-! ## The spec's arithmetic on plain numbers -/

/-- The raw pattern of a datum with bytes `b0`, `b1` as a number (R96). -/
def rawNumber : Format → Nat → Nat → Nat
  | .lo4, b0, _ => (b0 % 16) * 4096
  | .hi4, b0, _ => (b0 / 16) * 4096
  | .b8, b0, _ => b0 * 256
  | .w16, b0, b1 => b0 + 256 * b1

/-- `sext_16` (R13). -/
def sext16 (n : Nat) : Int := if n < 32768 then n else (n : Int) - 65536

/-- The held sample a datum gives at a volume: the signed product divided by 255, truncating toward zero, under
`twos_complement` (R180); the unsigned one, read as signed afterwards, under `unsigned_wrap` (R181). -/
def scaledNumber (interp : RawInterp) (fmt : Format) (b0 b1 v : Nat) : Int :=
  match interp with
  | .twosComplement => Int.tdiv (sext16 (rawNumber fmt b0 b1) * v) 255
  | .unsignedWrap => sext16 (rawNumber fmt b0 b1 * v / 255)

/-- The row of the fetch in a format (R94). -/
def fetchRow : Format → Chan → Byte → Instr
  | .lo4 => .fetchLo4
  | .hi4 => .fetchHi4
  | .b8 => .fetchB8
  | .w16 => .fetchW16

/-- A bus sum (R210): the samples of the four channels assigned to the bus and those of the chip sources. -/
def specBusSum (s : State) (bus : Bus) : Int :=
  (if s.params.chanBus.c0 = bus then (s.chans.c0.out.headD 0).toInt else 0)
  + (if s.params.chanBus.c1 = bus then (s.chans.c1.out.headD 0).toInt else 0)
  + (if s.params.chanBus.c2 = bus then (s.chans.c2.out.headD 0).toInt else 0)
  + (if s.params.chanBus.c3 = bus then (s.chans.c3.out.headD 0).toInt else 0)
  + ((List.zip s.params.chipBus s.chipQueues).map fun e => if e.1 = bus then (e.2.headD 0).toInt else 0).sum

/-- The left matrix result (R212), each product divided on its own; exchange the sums for the right one. -/
def specMatrix (own other gainOwn gainOther : Int) : Int := Int.tdiv (own * gainOwn) 100 + Int.tdiv (other * gainOther) 100

/-- Saturation to signed 16 bits (R240). -/
def specClip (x : Int) : Int := if x < -32768 then -32768 else if x > 32767 then 32767 else x

/-- A state with its waiting render requests joined to the running pass. -/
def joinPasses (s : State) : State := { s with framesLeft := s.framesLeft + s.requests.sum, requests := [] }

end Sys2Proof.Machine
end

