-- ==== Sys2Proof/Certificates/Slice0/Obligations.lean ====
section
/-! DEFINITION. Obligations.lean: what is claimed of the machine. Each statement's docstring names the rule of the spec
it formalises, or says that it rests on the spec's own decision or inference or on a choice of the model, and names
it. -/

open Sys2Proof Sys2Proof.Machine

/-! ## Encodings -/

/-- The messages of the model's own encoding (log 1) lose nothing: reading the message of a well-formed operation,
whatever bytes follow, gives the operation back with every operand, and those bytes. -/
def Obligations.DecodeEncodeRoundTrip : Prop :=
  ∀ (i : Instr) (rest : List Byte), i.wellFormed = true → decode (encode i ++ rest) = .ok (i, rest)

/-- Whatever the decoder accepts is a well-formed operation, and the bytes it took are that operation's one message
(log 1). -/
def Obligations.DecodedBytesAreTheMessage : Prop :=
  ∀ (bs : List Byte) (i : Instr) (rest : List Byte),
    decode bs = .ok (i, rest) → i.wellFormed = true ∧ bs = encode i ++ rest

/-- Words written out from R94 and R91, in the messages of log 1. -/
def Obligations.SampleWordsDecode : Prop :=
  decodeTableWord 8 0x80 = some (.fetchLo4 .c0 0x80)
  ∧ decodeTableWord 8 0x88 = some (.chIdleStopped .c0 0x88)
  ∧ decodeTableWord 8 0x0C = some (.hwByteC .c0 0x00)
  ∧ decode [0xF7, 0x02] = .ok (.fetchW16 .c2 0xF7, [])
  ∧ decode [0xC2, 0x01] = .ok (.fetchB8 .c1 0xC2, [])
  ∧ decode [0x40, 0x7F, 0x03] = .ok (.chIdleDisabled .c3 0x7F, [])
  ∧ decode [0x25, 0x80] = .ok (.hwByte5 .c2 0x80, [])
  ∧ decode [0x59, 0x06] = .ok (.render 6, [])
  ∧ decode [0x4E, 0x00, 0x01, 0x50] = .ok (.cfgSet none (some 40), [])

/-- R94: the six classes of a control byte by mask and match, the state each gives, and its row. -/
def Obligations.ControlByteClasses : Prop :=
  ∀ (ctl : Byte) (c : Chan),
    (ctl &&& 0x80 = 0x00 → stopped ctl = true ∧ decodeControl ctl c = .chIdleDisabled c ctl)
    ∧ (ctl &&& 0x88 = 0x88 → stopped ctl = true ∧ decodeControl ctl c = .chIdleStopped c ctl)
    ∧ (ctl &&& 0x8B = 0x80 → stopped ctl = false ∧ decodeControl ctl c = .fetchLo4 c ctl)
    ∧ (ctl &&& 0x8B = 0x81 → stopped ctl = false ∧ decodeControl ctl c = .fetchHi4 c ctl)
    ∧ (ctl &&& 0x8B = 0x82 → stopped ctl = false ∧ decodeControl ctl c = .fetchB8 c ctl)
    ∧ (ctl &&& 0x8B = 0x83 → stopped ctl = false ∧ decodeControl ctl c = .fetchW16 c ctl)

/-- R92: the fields from the bytes of the block and the bytes from the fields; a field write stores
`(v >> (8 * j)) & 0xFF` at each byte `j` of its field. -/
def Obligations.RegisterBlockLayout : Prop :=
  (∀ B : Nat → Byte,
    (regBlockOfBytes B).control = B 0
    ∧ (regBlockOfBytes B).startAddress.toNat = (B 1).toNat + (B 2).toNat * 256 + (B 3).toNat * 65536
    ∧ (regBlockOfBytes B).rateIncrement.toNat = (B 4).toNat + (B 5).toNat * 256 + (B 6).toNat * 65536
    ∧ (regBlockOfBytes B).endAddress.toNat = (B 7).toNat + (B 8).toNat * 256
    ∧ (regBlockOfBytes B).volume = B 9
    ∧ (regBlockOfBytes B).currentAddress.toNat = (B 0xA).toNat + (B 0xB).toNat * 256 + (B 0xC).toNat * 65536
    ∧ regBlockBytes (regBlockOfBytes B) = (List.range 13).map B)
  ∧ (∀ r : RegBlock, regBlockOfBytes (fun k => (regBlockBytes r).getD k 0) = r)
  ∧ (∀ (r : RegBlock) (v : Nat),
    (regBlockBytes (writeField r .control v)).take 1 = [BitVec.ofNat 8 v]
    ∧ ((regBlockBytes (writeField r .startAddress v)).drop 1).take 3
        = (List.range 3).map (fun j => BitVec.ofNat 8 (v >>> (8 * j)))
    ∧ ((regBlockBytes (writeField r .rateIncrement v)).drop 4).take 3
        = (List.range 3).map (fun j => BitVec.ofNat 8 (v >>> (8 * j)))
    ∧ ((regBlockBytes (writeField r .endAddress v)).drop 7).take 2
        = (List.range 2).map (fun j => BitVec.ofNat 8 (v >>> (8 * j)))
    ∧ ((regBlockBytes (writeField r .volume v)).drop 9).take 1 = [BitVec.ofNat 8 v]
    ∧ (regBlockBytes (writeField r .currentAddress v)).drop 10
        = (List.range 3).map (fun j => BitVec.ofNat 8 (v >>> (8 * j))))

/-- R65 and the frame of R102: `n` frames serialise to `4 * n` bytes under either byte order, and a callback of that
byte length asks for `n` frames. -/
def Obligations.FramesTakeFourBytes : Prop :=
  ∀ (order : ByteOrder) (fs : List (Stereo Sample)),
    (frameBytes order fs).length = 4 * fs.length ∧ callbackRender (frameBytes order fs).length = .render fs.length

/-! ## Step, reset, invariant -/

/-- A waiting message that reads as operation `i` is run: the step is `exec i` in the state without the message's
bytes (log 1, log 2). -/
def Obligations.StepRunsTheWaitingMessage : Prop :=
  ∀ (s : State) (i : Instr) (rest : List Byte),
    decode s.inbox = .ok (i, rest) → step s = exec i { s with inbox := rest }

/-- With no message waiting the step is the block's own next operation, its step numbered; with none of those either
the next burst of messages arrives, or nothing happens (log 2). -/
def Obligations.StepWithoutMessage : Prop :=
  ∀ s : State, s.inbox = [] →
    (∀ i, s.nextOwn = some i → step s = exec i { s with ownSteps := s.ownSteps + 1 })
    ∧ (∀ burst rest, s.nextOwn = none → s.later = burst :: rest → step s = .next { s with inbox := burst, later := rest })
    ∧ (s.nextOwn = none → s.later = [] → step s = .next s)

/-- R311, R272: with no pass running, or with rendering disabled, the block takes no step of its own. -/
def Obligations.BlockWaitsForRender : Prop :=
  ∀ s : State, (s.framesLeft = 0 ∨ s.params.renderEnabled = false) → s.nextOwn = none
    ∧ (s.inbox = [] → s.later = [] → step s = .next s)

/-- Every operation of every agent answers a next state, whatever its operands and the state (R280: none raises an
exception or refuses an operand; an agent whose step is not enabled takes none, log 3). -/
def Obligations.NoOperationStops : Prop :=
  ∀ (i : Instr) (s : State), ∃ t, exec i s = .next t

/-- The invariant holds at reset, and in every initial state with parameters in range. -/
def Obligations.InitialStatesMeetInvariant : Prop :=
  StateInv State.reset ∧ ∀ p : Params, ParamsWf p → StateInv (State.initial p)

/-- Every step keeps the invariant: R41 (the accumulator below the threshold between output samples), R45 and R46 (the
configuration in range, the gains derived), R60 (memory inside the array), R76 and R270 (no source ahead of the pass),
and the canonical form of memory. -/
def Obligations.StepKeepsInvariant : Prop :=
  ∀ s t : State, StateInv s → step s = .next t → StateInv t

/-- R310: `RESET` gives every register block its `REG_RESET`, zeroes the held sample, gives the mixer its reset
configuration and the gains derived from it, and leaves the memory array alone. That the accumulator is 0 and the phase
READY is decision D19 (log 9). R310 has `RESET` once and first, so what it does in the middle of a run is the model's
choice (log 20, DESIGN CHOICE): it ends any pass, forgets the outputs, and keeps the messages at the ports. -/
def Obligations.ResetEstablishesInitialState : Prop :=
  ∀ s : State, ∃ t, exec .reset s = .next t
    ∧ (∀ c, t.chan c = ⟨s.params.regReset.get c, 0, 0, .ready, []⟩)
    ∧ t.masterVolume = s.params.mvReset ∧ t.stereoSeparation = s.params.sepReset
    ∧ t.gainPrimary = Int.tdiv (Int.tdiv (s.params.sepReset + 100) 2 * s.params.mvReset) 100
    ∧ t.gainCross = Int.tdiv ((100 - Int.tdiv (s.params.sepReset + 100) 2) * s.params.mvReset) 100
    ∧ t.framesLeft = 0 ∧ t.requests = [] ∧ t.chipQueues = s.params.chipBus.map (fun _ => [])
    ∧ t.frames = [] ∧ t.reads = [] ∧ t.params = s.params ∧ t.inbox = s.inbox ∧ t.later = s.later
    ∧ ∀ a, t.mem.read a = s.mem.read a

/-- R10: the parameters are constant over a run. That an operation leaves the messages at the ports and the counter of the
block's own steps alone, `RESET` too, is the model's choice: both are its own fields (logs 1, 2, 16, 20, DESIGN CHOICE). -/
def Obligations.ParametersAreConstant : Prop :=
  ∀ (i : Instr) (s t : State), exec i s = .next t →
    t.params = s.params ∧ t.inbox = s.inbox ∧ t.later = s.later ∧ t.ownSteps = s.ownSteps

/-! ## The rate converter -/

/-- R9: the ratio in lowest terms. -/
def Obligations.ClockRatioInLowestTerms : Prop :=
  ∀ p : Params, 0 < p.nativeClockHz → 0 < p.outputSampleRate →
    ratioNum p * p.outputSampleRate = ratioDen p * p.nativeClockHz
    ∧ Nat.gcd (ratioNum p) (ratioDen p) = 1 ∧ 0 < ratioNum p ∧ 0 < ratioDen p ∧ 0 < accOne p

/-- R121: `RC.ADD`, performed by `CH.BEGIN` of a PLAYING channel, adds `rateIncrement * RATIO_NUM` to the accumulator,
unreduced, and sets the phase; nothing else changes. -/
def Obligations.RateAddition : Prop :=
  ∀ (s : State) (c : Chan), OwesSample s c →
    (s.chan c).regs.control.getLsbD 7 = true → (s.chan c).regs.control.getLsbD 3 = false →
    ∀ i ∈ [Instr.rcAdd c, .chBegin c], ∃ t, exec i s = .next t ∧ OnlyChannel c s t
      ∧ t.chan c = { s.chan c with
          accn := (s.chan c).accn + (s.chan c).regs.rateIncrement.toNat * ratioNum s.params
          phase := .ticking }

/-- R124: `CH.EMIT` emits the held sample and ends the output sample; nothing else changes. If then no tick occurs in the
next output sample (PLAYING, and `RC.ADD` does not reach `ACC_ONE`), the same value is emitted again. -/
def Obligations.EmitHoldsTheSample : Prop :=
  ∀ (s : State) (c : Chan), OwesEmit s c → ∃ t, exec (.chEmit c) s = .next t ∧ OnlyChannel c s t
    ∧ t.chan c = { s.chan c with phase := .ready, out := (s.chan c).out ++ [(s.chan c).last] }
    ∧ ((t.chan c).out.length < t.framesLeft →
      (s.chan c).regs.control.getLsbD 7 = true → (s.chan c).regs.control.getLsbD 3 = false →
      (s.chan c).accn + (s.chan c).regs.rateIncrement.toNat * ratioNum s.params < accOne s.params →
      ∃ u, execAll [.chBegin c, .chEmit c] t = .next u ∧ OnlyChannel c s u
        ∧ (u.chan c).last = (s.chan c).last
        ∧ (u.chan c).out = (s.chan c).out ++ [(s.chan c).last, (s.chan c).last])

/-- An operation whose enabling condition does not hold is not taken: the state stays (log 3, DESIGN CHOICE; that a part
of an atomic step is enabled only when that step performs it is log 4, DEDUCED). The conditions: those of `CH.BEGIN`,
`RC.TICK` and `CH.EMIT` (R121, R122, R124, R141: their `require`); a PLAYING channel for `RC.ADD`; the row's own class
for `CH.IDLE` (R94); the live format and the operand's loop bit for `FETCH.*`; the end match with the row's loop bit for
`END.LOOP` and `END.STOP` (R151, R152); an owed draw for `SRC.IN` (R200, R270); every source's sample for `MIX.SUM` and
`FRAME.OUT` (R76, R245). -/
def Obligations.StepsNotEnabledAreNotTaken : Prop :=
  ∀ (s : State) (c : Chan) (ctl : Byte) (fmt : Format) (k : Nat) (x : Sample),
    (¬ OwesSample s c → ∀ i ∈ [Instr.chBegin c, .chStep c, .rcAdd c, .chIdleDisabled c ctl, .chIdleStopped c ctl],
      exec i s = .next s)
    ∧ (¬ OwesTick s c → ∀ i ∈ [Instr.rcTick c, .volScale c, .endLoop c, .endStop c, fetchRow fmt c ctl],
      exec i s = .next s)
    ∧ (¬ OwesEmit s c → exec (.chEmit c) s = .next s)
    ∧ ((s.chan c).regs.control.getLsbD 7 = false ∨ (s.chan c).regs.control.getLsbD 3 = true →
      exec (.rcAdd c) s = .next s)
    ∧ ((s.chan c).regs.control &&& 0x80 ≠ 0x00 → exec (.chIdleDisabled c ctl) s = .next s)
    ∧ ((s.chan c).regs.control &&& 0x88 ≠ 0x88 → exec (.chIdleStopped c ctl) s = .next s)
    ∧ (formatOf (s.chan c).regs.control ≠ fmt ∨ (s.chan c).regs.control.getLsbD 6 ≠ ctl.getLsbD 6 →
      exec (fetchRow fmt c ctl) s = .next s)
    ∧ (((s.chan c).regs.currentAddress.toNat + stepBytes (formatOf (s.chan c).regs.control)) % 16777216 % 65536
        ≠ (s.chan c).regs.endAddress.toNat → ∀ i ∈ [Instr.endLoop c, .endStop c], exec i s = .next s)
    ∧ ((s.chan c).regs.control.getLsbD 6 = false → exec (.endLoop c) s = .next s)
    ∧ ((s.chan c).regs.control.getLsbD 6 = true → exec (.endStop c) s = .next s)
    ∧ ((∀ q, ¬ OwesDraw s k q) → exec (.srcIn k x) s = .next s)
    ∧ (¬ OwesFrame s → ∀ i ∈ [Instr.mixSum, .frameOut], exec i s = .next s)

/-- R125, no drift, for a channel that cannot stop (`LOOP = 1`): `m` output samples at a constant rate leave the
accumulator at `(A0 + m * r * RATIO_NUM) mod ACC_ONE`, whatever its fetches meet, and emit `m` samples. -/
def Obligations.AccumulatorNeverDrifts : Prop :=
  ∀ (s : State) (c : Chan) (m : Nat), ParamsWf s.params → s.params.renderEnabled = true →
    (s.chan c).phase = .ready → (s.chan c).accn < accOne s.params →
    (s.chan c).regs.control.getLsbD 7 = true → (s.chan c).regs.control.getLsbD 3 = false →
    (s.chan c).regs.control.getLsbD 6 = true → (s.chan c).out.length + m ≤ s.framesLeft →
    ∃ t, execAll (List.replicate m (.chStep c)) s = .next t ∧ OnlyChannel c s t
      ∧ (t.chan c).accn
          = ((s.chan c).accn + m * ((s.chan c).regs.rateIncrement.toNat * ratioNum s.params)) % accOne s.params
      ∧ (t.chan c).phase = .ready ∧ (t.chan c).regs.control = (s.chan c).regs.control
      ∧ (t.chan c).out.length = (s.chan c).out.length + m

/-- R125 and R334: a 16-bit channel whose pointer and end address differ in parity never meets its end. After `m` output
samples it has fetched exactly `floor((A0 + m * r * RATIO_NUM) / ACC_ONE)` times: its pointer has advanced by twice
that many bytes modulo 2^24 (R176, decision D10), and its control byte is what it was. -/
def Obligations.UnmatchedEndPlaysOn : Prop :=
  ∀ (s : State) (c : Chan) (m : Nat), ParamsWf s.params → s.params.renderEnabled = true →
    (s.chan c).phase = .ready → (s.chan c).accn < accOne s.params →
    (s.chan c).regs.control &&& 0x8B = 0x83 →
    (s.chan c).regs.currentAddress.toNat % 2 ≠ (s.chan c).regs.endAddress.toNat % 2 →
    (s.chan c).out.length + m ≤ s.framesLeft →
    ∃ t, execAll (List.replicate m (.chStep c)) s = .next t ∧ OnlyChannel c s t
      ∧ (t.chan c).regs = { (s.chan c).regs with
          currentAddress := BitVec.ofNat 24 ((s.chan c).regs.currentAddress.toNat
            + 2 * (((s.chan c).accn + m * ((s.chan c).regs.rateIncrement.toNat * ratioNum s.params)) / accOne s.params)) }

/-- R126: at `rateIncrement = 0` an output sample of a PLAYING channel fetches nothing: it emits the held sample and
leaves pointer, accumulator and everything else alone. -/
def Obligations.RateZeroHoldsTheSample : Prop :=
  ∀ (s : State) (c : Chan), OwesSample s c → (s.chan c).accn < accOne s.params →
    (s.chan c).regs.control.getLsbD 7 = true → (s.chan c).regs.control.getLsbD 3 = false →
    (s.chan c).regs.rateIncrement = 0 →
    ∃ t, exec (.chStep c) s = .next t ∧ OnlyChannel c s t
      ∧ t.chan c = { s.chan c with out := (s.chan c).out ++ [(s.chan c).last] }

/-! ## The channel engine -/

/-- R142: an output sample of a STOPPED channel (either class, R94) zeroes the accumulator and the held sample, emits 0
and touches nothing else: no register, no memory. -/
def Obligations.StoppedSampleIsSilent : Prop :=
  ∀ (s : State) (c : Chan) (ctl : Byte), OwesSample s c →
    ((s.chan c).regs.control &&& 0x80 = 0x00 →
      ∀ i ∈ [Instr.chIdleDisabled c ctl, .chBegin c, .chStep c], ∃ t, exec i s = .next t ∧ OnlyChannel c s t
        ∧ t.chan c = ⟨(s.chan c).regs, 0, 0, .ready, (s.chan c).out ++ [0]⟩)
    ∧ ((s.chan c).regs.control &&& 0x88 = 0x88 →
      ∀ i ∈ [Instr.chIdleStopped c ctl, .chBegin c, .chStep c], ∃ t, exec i s = .next t ∧ OnlyChannel c s t
        ∧ t.chan c = ⟨(s.chan c).regs, 0, 0, .ready, (s.chan c).out ++ [0]⟩)

/-- R140: `CH.STEP` emits exactly one sample, the held one. On a STOPPED channel it is `CH.BEGIN` alone; on a PLAYING one
it is `CH.BEGIN`, then `RC.TICK` as long as it is enabled, then `CH.EMIT`. That no other agent's step comes in between is
the model's choice for the operation (log 15, DESIGN CHOICE). -/
def Obligations.ChStepIsItsAtomicSteps : Prop :=
  ∀ (s : State) (c : Chan), ParamsWf s.params → OwesSample s c →
    ∃ t, exec (.chStep c) s = .next t
      ∧ OnlyChannel c s t ∧ (t.chan c).phase = .ready ∧ (t.chan c).accn < accOne s.params
      ∧ (t.chan c).out = (s.chan c).out ++ [(t.chan c).last]
      ∧ ((s.chan c).regs.control.getLsbD 7 = false ∨ (s.chan c).regs.control.getLsbD 3 = true →
        exec (.chBegin c) s = .next t)
      ∧ ((s.chan c).regs.control.getLsbD 7 = true → (s.chan c).regs.control.getLsbD 3 = false →
        ∃ (k : Nat) (u : State), execAll (.chBegin c :: List.replicate k (.rcTick c)) s = .next u
          ∧ OwesEmit u c ∧ exec (.chEmit c) u = .next t
          ∧ ∀ j < k, ∃ v, execAll (.chBegin c :: List.replicate j (.rcTick c)) s = .next v ∧ OwesTick v c)

/-- R170, R171 to R174, R176, R180 (their shift counts, modulus, sign and rounding are decisions D7, D8, D9, D10): the
fetch of each format, in bounds and away from the end address, holds the datum at the pointer scaled by the volume,
advances the pointer by the format's step, and takes one `ACC_ONE` from the accumulator. Nothing else changes. -/
def Obligations.FetchDecodesAndAdvances : Prop :=
  ∀ (s : State) (c : Chan) (ctl : Byte) (fmt : Format), OwesTick s c →
    formatOf (s.chan c).regs.control = fmt →
    (s.chan c).regs.control.getLsbD 6 = ctl.getLsbD 6 →
    (s.chan c).regs.currentAddress.toNat + stepBytes fmt ≤ s.params.memSize →
    ((s.chan c).regs.currentAddress.toNat + stepBytes fmt) % 16777216 % 65536 ≠ (s.chan c).regs.endAddress.toNat →
    ∀ i ∈ [fetchRow fmt c ctl, .rcTick c, .volScale c], ∃ t, exec i s = .next t ∧ OnlyChannel c s t
      ∧ (t.chan c).last.toInt
          = scaledNumber s.params.rawInterp fmt (s.mem.read (s.chan c).regs.currentAddress.toNat).toNat
              (s.mem.read ((s.chan c).regs.currentAddress.toNat + 1)).toNat (s.chan c).regs.volume.toNat
      ∧ (t.chan c).regs = { (s.chan c).regs with
          currentAddress := BitVec.ofNat 24 ((s.chan c).regs.currentAddress.toNat + stepBytes fmt) }
      ∧ (t.chan c).accn = (s.chan c).accn - accOne s.params
      ∧ (t.chan c).phase = .ticking ∧ (t.chan c).out = (s.chan c).out

/-- R175 (its `>=` is conflict C4, decision D11) and R61: a fetch whose highest byte address is not below MEM_SIZE reads
as silence and otherwise goes on: same advance, same accumulator step, no fault; under either RAW_INTERP. -/
def Obligations.FetchOutOfBoundsIsSilent : Prop :=
  ∀ (s : State) (c : Chan) (ctl : Byte) (fmt : Format), OwesTick s c →
    formatOf (s.chan c).regs.control = fmt →
    (s.chan c).regs.control.getLsbD 6 = ctl.getLsbD 6 →
    s.params.memSize < (s.chan c).regs.currentAddress.toNat + stepBytes fmt →
    ((s.chan c).regs.currentAddress.toNat + stepBytes fmt) % 16777216 % 65536 ≠ (s.chan c).regs.endAddress.toNat →
    ∀ i ∈ [fetchRow fmt c ctl, .rcTick c, .volScale c], ∃ t, exec i s = .next t ∧ OnlyChannel c s t
      ∧ t.chan c = { s.chan c with
          accn := (s.chan c).accn - accOne s.params
          last := 0
          regs := { (s.chan c).regs with
            currentAddress := BitVec.ofNat 24 ((s.chan c).regs.currentAddress.toNat + stepBytes fmt) } }

/-- R151 (decision D30), R284: at the end address with `LOOP = 1` the fetch, in bounds or not, loads all 24 bits of
`startAddress` into the pointer; the stopped flag, the sample just fetched (silence when out of bounds, R175) and the
accumulator's fraction stay. -/
def Obligations.FetchLoopsAtEnd : Prop :=
  ∀ (s : State) (c : Chan) (ctl : Byte), OwesTick s c →
    ((s.chan c).regs.currentAddress.toNat + stepBytes (formatOf (s.chan c).regs.control)) % 16777216 % 65536
      = (s.chan c).regs.endAddress.toNat →
    (s.chan c).regs.control.getLsbD 6 = true → ctl.getLsbD 6 = true →
    ∀ i ∈ [Instr.endLoop c, .rcTick c, .volScale c, fetchRow (formatOf (s.chan c).regs.control) c ctl],
      ∃ t, exec i s = .next t ∧ OnlyChannel c s t
      ∧ (t.chan c).regs = { (s.chan c).regs with currentAddress := (s.chan c).regs.startAddress }
      ∧ (t.chan c).last.toInt
          = (if (s.chan c).regs.currentAddress.toNat + stepBytes (formatOf (s.chan c).regs.control) ≤ s.params.memSize
            then scaledNumber s.params.rawInterp (formatOf (s.chan c).regs.control)
              (s.mem.read (s.chan c).regs.currentAddress.toNat).toNat
              (s.mem.read ((s.chan c).regs.currentAddress.toNat + 1)).toNat (s.chan c).regs.volume.toNat
            else 0)
      ∧ (t.chan c).accn = (s.chan c).accn - accOne s.params
      ∧ (t.chan c).phase = .ticking ∧ (t.chan c).out = (s.chan c).out

/-- R152, R284 (the advanced address modulo 2^24 is R176, decision D10): at the end address with `LOOP = 0` the fetch, in
bounds or not, sets bit 3 of `control` and no other bit, zeroes the held sample and the accumulator, and leaves the
pointer at the advanced address; the output sample in which this happens then emits 0. -/
def Obligations.FetchStopsAtEnd : Prop :=
  ∀ (s : State) (c : Chan) (ctl : Byte), OwesTick s c → 0 < accOne s.params →
    ((s.chan c).regs.currentAddress.toNat + stepBytes (formatOf (s.chan c).regs.control)) % 16777216 % 65536
      = (s.chan c).regs.endAddress.toNat →
    (s.chan c).regs.control.getLsbD 6 = false → ctl.getLsbD 6 = false →
    ∀ i ∈ [Instr.endStop c, .rcTick c, .volScale c, fetchRow (formatOf (s.chan c).regs.control) c ctl],
      ∃ t, exec i s = .next t ∧ OnlyChannel c s t
      ∧ t.chan c = { s.chan c with
          regs := { (s.chan c).regs with
            control := (s.chan c).regs.control ||| 0x08
            currentAddress := BitVec.ofNat 24
              ((s.chan c).regs.currentAddress.toNat + stepBytes (formatOf (s.chan c).regs.control)) }
          last := 0
          accn := 0 }
      ∧ ∃ u, exec (.chEmit c) t = .next u ∧ (u.chan c).out = (s.chan c).out ++ [0]

/-- R154: once the stopped flag is set, an output sample of the channel is silence and neither its pointer nor any
other register changes, so that any number of them is. -/
def Obligations.StoppedFlagMeansContinuousSilence : Prop :=
  ∀ (s : State) (c : Chan) (m : Nat), s.params.renderEnabled = true → (s.chan c).phase = .ready →
    (s.chan c).regs.control.getLsbD 3 = true → (s.chan c).out.length + m ≤ s.framesLeft →
    ∃ t, execAll (List.replicate m (.chStep c)) s = .next t ∧ OnlyChannel c s t
      ∧ (t.chan c).regs = (s.chan c).regs ∧ (t.chan c).out = (s.chan c).out ++ List.replicate m 0

/-- The frame of every operation of channel `c`'s agent (R32, R157, R292): it touches only that channel; of its
registers only the pointer and `control` can change, `control` only by setting bit 3 (R26); no byte of memory. -/
def Obligations.ChannelOperationFrame : Prop :=
  ∀ (i : Instr) (c : Chan) (s t : State), channelOf i = some c → exec i s = .next t →
    OnlyChannel c s t
    ∧ (t.chan c).regs.startAddress = (s.chan c).regs.startAddress
    ∧ (t.chan c).regs.rateIncrement = (s.chan c).regs.rateIncrement
    ∧ (t.chan c).regs.endAddress = (s.chan c).regs.endAddress
    ∧ (t.chan c).regs.volume = (s.chan c).regs.volume
    ∧ ((t.chan c).regs.control = (s.chan c).regs.control
        ∨ (t.chan c).regs.control = (s.chan c).regs.control ||| 0x08)
    ∧ ∀ a, t.mem.read a = s.mem.read a

/-- R75, R292: operations of two different channels may be taken in either order. -/
def Obligations.ChannelsCommute : Prop :=
  ∀ (i j : Instr) (c d : Chan) (s : State), channelOf i = some c → channelOf j = some d → c ≠ d →
    execAll [i, j] s = execAll [j, i] s

/-- R159: the pointer of a channel changes only by the advance of a fetch, by the load of `startAddress`, by a host
write of the field, or by reset. (`CH.STEP`, a sequence of such steps, is left to the statement about its parts.) -/
def Obligations.PointerChangesInThreeWays : Prop :=
  ∀ (i : Instr) (s t : State) (c : Chan), exec i s = .next t → i ≠ .chStep c →
    (t.chan c).regs.currentAddress = (s.chan c).regs.currentAddress
    ∨ (channelOf i = some c
        ∧ ((t.chan c).regs.currentAddress.toNat
              = ((s.chan c).regs.currentAddress.toNat + stepBytes (formatOf (s.chan c).regs.control)) % 16777216
            ∨ (t.chan c).regs.currentAddress = (s.chan c).regs.startAddress))
    ∨ hostWrites s.params i c .currentAddress
    ∨ i = .reset

/-- R22, R24, R79: `control` changes only by a host write of it, by reset, or by the channel's own engine setting bit 3;
so no operation of the block changes the enable bit or clears the stopped flag. -/
def Obligations.ControlWriters : Prop :=
  ∀ (i : Instr) (s t : State) (c : Chan), exec i s = .next t →
    (t.chan c).regs.control = (s.chan c).regs.control
    ∨ (channelOf i = some c ∧ (t.chan c).regs.control = (s.chan c).regs.control ||| 0x08)
    ∨ hostWrites s.params i c .control
    ∨ i = .reset

/-- R129, R250, R265: the accumulator, the held sample and the phase of a channel are written by that channel's own
operations and by reset, and by nothing the host can do; the frame output (port P7) is written by `FRAME.OUT` and reset
only. The model's list of what the host has read back (log 19) is written by `HR.FIELD` and reset only. -/
def Obligations.PrivateStateWriters : Prop :=
  ∀ (i : Instr) (s t : State), exec i s = .next t → i ≠ .reset →
    (∀ c, channelOf i ≠ some c →
      (t.chan c).accn = (s.chan c).accn ∧ (t.chan c).last = (s.chan c).last ∧ (t.chan c).phase = (s.chan c).phase)
    ∧ (i ≠ .frameOut → t.frames = s.frames)
    ∧ ((∀ c f, i ≠ .hrField c f) → t.reads = s.reads)

/-- R180 (decisions D8, D9): scaling is the exact quotient truncated toward zero, without wrap; volume 255 passes the
sample, volume 0 silences it. -/
def Obligations.VolumeScalesExactly : Prop :=
  ∀ (raw : Sample) (v : Byte),
    (volScale .twosComplement raw v).toInt = Int.tdiv (raw.toInt * v.toNat) 255
    ∧ volScale .twosComplement raw 255 = raw ∧ volScale .twosComplement raw 0 = 0

/-- R181: where the two readings of a raw pattern agree, and that they differ everywhere else. -/
def Obligations.RawReadingsAgreement : Prop :=
  ∀ (raw : Sample) (v : Byte),
    volScale .twosComplement raw v = volScale .unsignedWrap raw v
      ↔ raw.toNat < 0x8000 ∨ v = 255 ∨ v = 0

/-- R288, R272: while rendering is disabled no operation of the channels, the chip sources, the mixer or the sink
changes anything, and the block takes no step of its own. -/
def Obligations.DisabledRenderingFreezes : Prop :=
  ∀ (s : State), s.params.renderEnabled = false →
    (∀ i c, channelOf i = some c → exec i s = .next s)
    ∧ (∀ k x, exec (.srcIn k x) s = .next s)
    ∧ (∀ side, ∀ i ∈ [Instr.mixSum, .mixMatrix, .clipS16 side, .frameOut], exec i s = .next s)
    ∧ (∀ n, exec (.render n) s = .next s)
    ∧ s.nextOwn = none

/-! ## Chip sources and mixer -/

/-- R200 (with the order of R270): a chip source's sample joins the end of its queue; nothing else changes. -/
def Obligations.SourceSuppliesSample : Prop :=
  ∀ (s : State) (k : Nat) (x : Sample) (q : List Sample), OwesDraw s k q →
    ∃ t, exec (.srcIn k x) s = .next t ∧ t.chipQueues[k]? = some (q ++ [x])
      ∧ (∀ j, j ≠ k → t.chipQueues[j]? = s.chipQueues[j]?) ∧ t = { s with chipQueues := t.chipQueues }

/-- R210 (decisions D14, D16): the bus sums are the plain sums of the samples assigned to each bus; only the intermediate
pair is written (log 5). -/
def Obligations.BusSummation : Prop :=
  ∀ s : State, OwesFrame s → ∃ t, exec .mixSum s = .next t
    ∧ t.busSum = ⟨specBusSum s .left, specBusSum s .right⟩ ∧ t = { s with busSum := t.busSum }

/-- R212 (decision D9): the matrix, each product divided on its own; only the intermediate pair is written (log 5). -/
def Obligations.MatrixOfTheSums : Prop :=
  ∀ s : State, s.params.renderEnabled = true → ∃ t, exec .mixMatrix s = .next t
    ∧ t.mixOut.left = specMatrix s.busSum.left s.busSum.right s.gainPrimary s.gainCross
    ∧ t.mixOut.right = specMatrix s.busSum.right s.busSum.left s.gainPrimary s.gainCross
    ∧ t = { s with mixOut := t.mixOut }

/-- R240: `CLIP.S16` gives -32768 below -32768, 32767 above 32767 and the integer itself otherwise; it is idempotent. -/
def Obligations.ClipSaturates : Prop :=
  ∀ x : Int,
    (x < -32768 → clip16 x = -32768) ∧ (32767 < x → clip16 x = 32767) ∧ (-32768 ≤ x → x ≤ 32767 → clip16 x = x)
    ∧ clip16 (clip16 x) = clip16 x

/-- R240, run as an operation of its own (log 5, DESIGN CHOICE): `CLIP.S16` saturates the matrix result of its side, of
any magnitude; only the clipped result of that side is written. -/
def Obligations.ClipOperation : Prop :=
  ∀ s : State, s.params.renderEnabled = true →
    (∃ t, exec (.clipS16 .left) s = .next t ∧ t.clipOut.left.toInt = specClip s.mixOut.left
      ∧ t.clipOut.right = s.clipOut.right ∧ t = { s with clipOut := t.clipOut })
    ∧ (∃ t, exec (.clipS16 .right) s = .next t ∧ t.clipOut.right.toInt = specClip s.mixOut.right
      ∧ t.clipOut.left = s.clipOut.left ∧ t = { s with clipOut := t.clipOut })

/-- R245: `FRAME.OUT` outputs one frame, the clipped matrix of the bus sums, left first, as one step; it uses up one
sample of every source and one frame of the pass, and when the pass ends a waiting request becomes the running one
(R270, log 12). Registers, private state, configuration and memory stay. -/
def Obligations.FrameOutput : Prop :=
  ∀ s : State, OwesFrame s → ∃ t f, exec .frameOut s = .next t
    ∧ t.frames = s.frames ++ [f]
    ∧ f.left.toInt = specClip (specMatrix (specBusSum s .left) (specBusSum s .right) s.gainPrimary s.gainCross)
    ∧ f.right.toInt = specClip (specMatrix (specBusSum s .right) (specBusSum s .left) s.gainPrimary s.gainCross)
    ∧ (∀ c, t.chan c = { s.chan c with out := (s.chan c).out.tail })
    ∧ t.chipQueues = s.chipQueues.map List.tail
    ∧ (1 < s.framesLeft → t.framesLeft = s.framesLeft - 1 ∧ t.requests = s.requests)
    ∧ (s.framesLeft = 1 → s.requests = [] → t.framesLeft = 0 ∧ t.requests = [])
    ∧ (s.framesLeft = 1 → ∀ n rest, s.requests = n :: rest → t.framesLeft = n ∧ t.requests = rest)
    ∧ t = { s with
        chans := t.chans, chipQueues := t.chipQueues, framesLeft := t.framesLeft, requests := t.requests
        busSum := t.busSum, mixOut := t.mixOut, clipOut := t.clipOut, frames := t.frames }

/-- R213: at full volume, separation 100 isolates the sides, -100 swaps them, and 0 gives both sides the same blend. -/
def Obligations.LandmarkSeparations : Prop :=
  ∀ l r : Int,
    mixMatrixOf (primaryGain 100 100) (crossGain 100 100) ⟨l, r⟩ = ⟨l, r⟩
    ∧ mixMatrixOf (primaryGain 100 (-100)) (crossGain 100 (-100)) ⟨l, r⟩ = ⟨r, l⟩
    ∧ mixMatrixOf (primaryGain 100 0) (crossGain 100 0) ⟨l, r⟩
        = ⟨Int.tdiv (l * 50) 100 + Int.tdiv (r * 50) 100, Int.tdiv (l * 50) 100 + Int.tdiv (r * 50) 100⟩

/-- R46: the ranges of `sepHalf` and of the gains, and that the gains together do not exceed the master volume. -/
def Obligations.GainRanges : Prop :=
  ∀ m x : Int, 0 ≤ m → m ≤ 100 → -100 ≤ x → x ≤ 100 →
    0 ≤ sepHalf x ∧ sepHalf x ≤ 100
    ∧ 0 ≤ primaryGain m x ∧ primaryGain m x ≤ 100 ∧ 0 ≤ crossGain m x ∧ crossGain m x ≤ 100
    ∧ primaryGain m x + crossGain m x ≤ m

/-- R47: before the clip a result is no larger in magnitude than the larger bus sum, under any legal configuration. -/
def Obligations.MatrixNeverAmplifies : Prop :=
  ∀ m x l r : Int, 0 ≤ m → m ≤ 100 → -100 ≤ x → x ≤ 100 →
    |(mixMatrixOf (primaryGain m x) (crossGain m x) ⟨l, r⟩).left| ≤ max |l| |r|
    ∧ |(mixMatrixOf (primaryGain m x) (crossGain m x) ⟨l, r⟩).right| ≤ max |l| |r|

/-- R220 (the sentinel is decision D17), R222: `CFG.SET` clamps an integer argument, keeps the value for UNCHANGED, and
updates the gains in the same step; nothing else changes, and with both arguments UNCHANGED nothing does. -/
def Obligations.ConfigurationStores : Prop :=
  ∀ (s : State) (volume separation : Option Int),
    (∃ t, exec (.cfgSet volume separation) s = .next t
      ∧ (volume = none → t.masterVolume = s.masterVolume)
      ∧ (∀ v, volume = some v → t.masterVolume = if v < 0 then 0 else if v > 100 then 100 else v)
      ∧ (separation = none → t.stereoSeparation = s.stereoSeparation)
      ∧ (∀ x, separation = some x → t.stereoSeparation = if x < -100 then -100 else if x > 100 then 100 else x)
      ∧ t.gainPrimary = Int.tdiv (Int.tdiv (t.stereoSeparation + 100) 2 * t.masterVolume) 100
      ∧ t.gainCross = Int.tdiv ((100 - Int.tdiv (t.stereoSeparation + 100) 2) * t.masterVolume) 100
      ∧ t = { s with
          masterVolume := t.masterVolume, stereoSeparation := t.stereoSeparation
          gainPrimary := t.gainPrimary, gainCross := t.gainCross })
    ∧ (StateInv s → exec (.cfgSet none none) s = .next s)

/-- R221: `GAIN.UPDATE` derives the two gains, each truncated on its own; nothing else changes. -/
def Obligations.GainsAreDerived : Prop :=
  ∀ s : State, ∃ t, exec .gainUpdate s = .next t
    ∧ t.gainPrimary = Int.tdiv (Int.tdiv (s.stereoSeparation + 100) 2 * s.masterVolume) 100
    ∧ t.gainCross = Int.tdiv ((100 - Int.tdiv (s.stereoSeparation + 100) 2) * s.masterVolume) 100
    ∧ t = { s with gainPrimary := t.gainPrimary, gainCross := t.gainCross }

/-- R45, R222: the mixer configuration and its gains are written by `CFG.SET`, `GAIN.UPDATE` and reset only. -/
def Obligations.ConfigurationWriters : Prop :=
  ∀ (i : Instr) (s t : State), exec i s = .next t →
    (∀ v x, i ≠ .cfgSet v x) → i ≠ .gainUpdate → i ≠ .reset →
    t.masterVolume = s.masterVolume ∧ t.stereoSeparation = s.stereoSeparation
    ∧ t.gainPrimary = s.gainPrimary ∧ t.gainCross = s.gainCross

/-! ## Host and sink -/

/-- R251 to R255: a host field write stores the value, reduced to the field's width, in that field and does nothing
else. -/
def Obligations.HostFieldWritesStore : Prop :=
  ∀ (s : State) (c : Chan) (v : Nat),
    (∃ t, exec (.hwControl c v) s = .next t ∧ OnlyChannel c s t ∧ t.chan c = { s.chan c with
      regs := { (s.chan c).regs with control := BitVec.ofNat 8 v } })
    ∧ (∃ t, exec (.hwStart c v) s = .next t ∧ OnlyChannel c s t ∧ t.chan c = { s.chan c with
      regs := { (s.chan c).regs with startAddress := BitVec.ofNat 24 v } })
    ∧ (∃ t, exec (.hwRate c v) s = .next t ∧ OnlyChannel c s t ∧ t.chan c = { s.chan c with
      regs := { (s.chan c).regs with rateIncrement := BitVec.ofNat 24 v } })
    ∧ (∃ t, exec (.hwEnd c v) s = .next t ∧ OnlyChannel c s t ∧ t.chan c = { s.chan c with
      regs := { (s.chan c).regs with endAddress := BitVec.ofNat 16 v } })
    ∧ (∃ t, exec (.hwVolume c v) s = .next t ∧ OnlyChannel c s t ∧ t.chan c = { s.chan c with
      regs := { (s.chan c).regs with volume := BitVec.ofNat 8 v } })

/-- R256 (that the host may write the pointer at all is decision D4): it stores the value and does nothing else. -/
def Obligations.HostWritesThePointer : Prop :=
  ∀ (s : State) (c : Chan) (v : Nat),
    ∃ t, exec (.hwCurrent c v) s = .next t ∧ OnlyChannel c s t ∧ t.chan c = { s.chan c with
      regs := { (s.chan c).regs with currentAddress := BitVec.ofNat 24 v } }

/-- R262 with the layout of R91: a byte write at offset 0x0 to 0xC replaces that byte of the block and changes nothing
else; at 0xD to 0xF it changes nothing. -/
def Obligations.HostByteWritesReplaceOneByte : Prop :=
  ∀ (s : State) (c : Chan) (b : Byte),
    (∀ e ∈ [(Instr.hwByte0 c b, 0x0), (.hwByte1 c b, 0x1), (.hwByte2 c b, 0x2), (.hwByte3 c b, 0x3),
        (.hwByte4 c b, 0x4), (.hwByte5 c b, 0x5), (.hwByte6 c b, 0x6), (.hwByte7 c b, 0x7), (.hwByte8 c b, 0x8),
        (.hwByte9 c b, 0x9), (.hwByteA c b, 0xA), (.hwByteB c b, 0xB), (.hwByteC c b, 0xC)],
      ∃ t, exec e.1 s = .next t ∧ OnlyChannel c s t ∧ t.chan c = { s.chan c with regs := (t.chan c).regs }
        ∧ regBlockBytes (t.chan c).regs = (regBlockBytes (s.chan c).regs).set e.2 b)
    ∧ ∀ i ∈ [Instr.noneD c b, .noneE c b, .noneF c b], exec i s = .next s

/-- R69, R262: `HW.BYTE` at I/O address `REG_BASE[c] + off` replaces byte `off` of block `c` and changes nothing else,
for blocks that do not overlap; at an address in no block it changes nothing (log 18). -/
def Obligations.IoAddressSelectsTheBlock : Prop :=
  ∀ (s : State) (b : Byte), ParamsWf s.params →
    (∀ (c : Chan) (off : Nat), off < 13 →
      ∃ t, exec (.hwByte (s.params.regBase.get c + off) b) s = .next t ∧ OnlyChannel c s t
        ∧ t.chan c = { s.chan c with regs := (t.chan c).regs }
        ∧ regBlockBytes (t.chan c).regs = (regBlockBytes (s.chan c).regs).set off b)
    ∧ ∀ a : Nat, (∀ c : Chan, a < s.params.regBase.get c ∨ s.params.regBase.get c + 13 ≤ a) →
      exec (.hwByte a b) s = .next s

/-- R260: a host read hands over the field's value, whole and zero-extended; nothing else changes. -/
def Obligations.HostReadsAField : Prop :=
  ∀ (s : State) (c : Chan) (f : RegField), ∃ t, exec (.hrField c f) s = .next t
    ∧ (∃ v : BitVec 24, t.reads = s.reads ++ [⟨c, f, v⟩]
      ∧ (f = .control → v.toNat = (s.chan c).regs.control.toNat)
      ∧ (f = .startAddress → v = (s.chan c).regs.startAddress)
      ∧ (f = .rateIncrement → v = (s.chan c).regs.rateIncrement)
      ∧ (f = .endAddress → v.toNat = (s.chan c).regs.endAddress.toNat)
      ∧ (f = .volume → v.toNat = (s.chan c).regs.volume.toNat)
      ∧ (f = .currentAddress → v = (s.chan c).regs.currentAddress))
    ∧ t = { s with reads := t.reads }

/-- R264: a host store writes one byte of the array; every other byte and the rest of the state stay. -/
def Obligations.HostStoresAByte : Prop :=
  ∀ (s : State) (a : Nat) (b : Byte), s.mem.Wf → a < s.params.memSize →
    ∃ t, exec (.memWr a b) s = .next t ∧ t.mem.read a = b ∧ (∀ a', a' ≠ a → t.mem.read a' = s.mem.read a')
      ∧ t.mem.Wf ∧ t = { s with mem := t.mem }

/-- A store outside the array changes nothing of the block (R264, R265; log 11, DEDUCED). -/
def Obligations.HostStoreOutsideTheArray : Prop :=
  ∀ (s : State) (a : Nat) (b : Byte), s.params.memSize ≤ a → exec (.memWr a b) s = .next s

/-- R60, R182: the block never writes the array: no operation but `MEM.WR` changes a byte of it. -/
def Obligations.OnlyTheHostWritesMemory : Prop :=
  ∀ (i : Instr) (s t : State), exec i s = .next t → (∀ a b, i ≠ .memWr a b) → ∀ a, t.mem.read a = s.mem.read a

/-- R270, R272: `RENDER n` opens a pass of `n` frames when none runs, waits behind a running one (log 12), and does
nothing for `n = 0`; nothing else changes. -/
def Obligations.RenderOpensAPass : Prop :=
  ∀ (s : State) (n : Nat), s.params.renderEnabled = true →
    (0 < n → s.framesLeft = 0 → exec (.render n) s = .next { s with framesLeft := n })
    ∧ (0 < n → 0 < s.framesLeft → exec (.render n) s = .next { s with requests := s.requests ++ [n] })
    ∧ exec (.render 0) s = .next s

/-- R270: left to itself, the block completes the running pass and the waiting ones, and outputs exactly the frames they asked
for. That requests wait behind a running pass is log 12, the order in which the block takes its own steps log 2 (both
DESIGN CHOICE). -/
def Obligations.PassesComplete : Prop :=
  ∀ s : State, StateInv s → s.inbox = [] → s.later = [] →
    ∃ (k : Nat) (t : State), Host.Core.run Sys2Proof.core k s = .next t ∧ t.framesLeft = 0 ∧ t.requests = []
      ∧ t.frames.length = s.frames.length + s.framesLeft + s.requests.sum

/-- R271: passes compose. From a state with no pass running and nothing else to come: (1) `RENDER m` issued while the pass
of `RENDER n` runs waits for it (log 12, DESIGN CHOICE), and the two and `RENDER (n + m)` give, after any number of the
block's own steps, the same state but for where the pass boundary lies, and the same state when both are complete;
(2) `RENDER m` issued after the pass of `RENDER n` is complete gives the state that `RENDER (n + m)` gives some steps
later, and goes on as it does, so frames and final state are the same. The order of the block's own steps is log 2
(DESIGN CHOICE). -/
def Obligations.PassesCompose : Prop :=
  ∀ (s : State) (n m : Nat), StateInv s → s.params.renderEnabled = true → s.framesLeft = 0 → s.inbox = [] → s.later = [] →
    (∀ k : Nat, ∃ a b a' b' : State,
      execAll [.render n, .render m] s = .next a ∧ execAll [.render (n + m)] s = .next b
      ∧ Host.Core.run Sys2Proof.core k a = .next a' ∧ Host.Core.run Sys2Proof.core k b = .next b'
      ∧ joinPasses a' = joinPasses b' ∧ (b'.framesLeft = 0 → a' = b'))
    ∧ ∃ a b : State, exec (.render n) s = .next a ∧ exec (.render (n + m)) s = .next b
      ∧ ∀ (k : Nat) (a' : State), Host.Core.run Sys2Proof.core k a = .next a' → a'.framesLeft = 0 →
        ∃ (d : State) (j : Nat), exec (.render m) a' = .next d
          ∧ ∀ l : Nat, Host.Core.run Sys2Proof.core l d = Host.Core.run Sys2Proof.core (j + l) b

/-- R113: `PROG` is five field writes in the given order, `ENABLE c, fmt, loop` one write of `control` with `EN = 1`,
`STP = 0` and the given loop bit and format, `DISABLE c` one write of `control` with 0; and the state each leaves: the
fields written, and nothing else of the channel or of the block. -/
def Obligations.PseudoOperationsExpand : Prop :=
  ∀ (p : Params) (s : State) (c : Chan),
    (∀ (fmt loop : Nat), fmt < 4 → loop < 2 →
      (DriverLine.enable c fmt loop).instrs p = [.hwControl c (128 + 64 * loop + fmt)]
      ∧ ∃ t, execAll ((DriverLine.enable c fmt loop).instrs p) s = .next t ∧ OnlyChannel c s t
        ∧ t.chan c = { s.chan c with
            regs := { (s.chan c).regs with control := BitVec.ofNat 8 (128 + 64 * loop + fmt) } })
    ∧ ((DriverLine.disable c).instrs p = [.hwControl c 0]
      ∧ ∃ t, execAll ((DriverLine.disable c).instrs p) s = .next t ∧ OnlyChannel c s t
        ∧ t.chan c = { s.chan c with regs := { (s.chan c).regs with control := 0 } })
    ∧ ∀ start endAddr rate vol cur : Nat,
      (DriverLine.prog c start endAddr rate vol cur).instrs p
        = [.hwStart c start, .hwEnd c endAddr, .hwRate c rate, .hwVolume c vol, .hwCurrent c cur]
      ∧ ∃ t, execAll ((DriverLine.prog c start endAddr rate vol cur).instrs p) s = .next t ∧ OnlyChannel c s t
        ∧ t.chan c = { s.chan c with
            regs := ⟨(s.chan c).regs.control, BitVec.ofNat 24 start, BitVec.ofNat 24 rate, BitVec.ofNat 16 endAddr,
              BitVec.ofNat 8 vol, BitVec.ofNat 24 cur⟩ }
end

