-- ==== Sys2Proof/Laws/State.lean ====
section
/-! SUPPORT. Laws/State.lean: one lemma per field and update of the state, so that no proof unfolds a record update. -/

namespace Sys2Proof

@[simp] theorem PerChan.get_set_same {α : Type} (q : PerChan α) (c : Chan) (x : α) : (q.set c x).get c = x := by
  cases c <;> rfl

theorem PerChan.get_set_ne {α : Type} (q : PerChan α) {c d : Chan} (x : α) (h : d ≠ c) :
    (q.set c x).get d = q.get d := by
  cases c <;> cases d <;> first | rfl | exact absurd rfl h

@[simp] theorem PerChan.get_map {α β : Type} (f : α → β) (q : PerChan α) (c : Chan) : (q.map f).get c = f (q.get c) := by
  cases c <;> rfl

theorem PerChan.set_set_comm {α : Type} (q : PerChan α) {c d : Chan} (x y : α) (h : d ≠ c) :
    (q.set c x).set d y = (q.set d y).set c x := by
  cases c <;> cases d <;> first | rfl | exact absurd rfl h

theorem PerChan.set_get {α : Type} (q : PerChan α) (c : Chan) : q.set c (q.get c) = q := by
  cases c <;> rfl

/-- A property of all four, as one of each. -/
theorem PerChan.forall_iff {α : Type} (P : α → Prop) (q : PerChan α) : q.Forall P ↔ ∀ c, P (q.get c) :=
  ⟨fun h c => by cases c <;> [exact h.1; exact h.2.1; exact h.2.2.1; exact h.2.2.2],
   fun h => ⟨h .c0, h .c1, h .c2, h .c3⟩⟩

namespace Machine

variable (s : State) (c d : Chan) (ch : Channel) (r : RegBlock)

@[simp] theorem chan_setChan_same : (s.setChan c ch).chan c = ch := PerChan.get_set_same _ _ _

theorem chan_setChan_ne {c d : Chan} (h : d ≠ c) : (s.setChan c ch).chan d = s.chan d := PerChan.get_set_ne _ _ h

@[simp] theorem setChan_params : (s.setChan c ch).params = s.params := rfl
@[simp] theorem setChan_chans : (s.setChan c ch).chans = s.chans.set c ch := rfl
@[simp] theorem setChan_masterVolume : (s.setChan c ch).masterVolume = s.masterVolume := rfl
@[simp] theorem setChan_stereoSeparation : (s.setChan c ch).stereoSeparation = s.stereoSeparation := rfl
@[simp] theorem setChan_gainPrimary : (s.setChan c ch).gainPrimary = s.gainPrimary := rfl
@[simp] theorem setChan_gainCross : (s.setChan c ch).gainCross = s.gainCross := rfl
@[simp] theorem setChan_mem : (s.setChan c ch).mem = s.mem := rfl
@[simp] theorem setChan_chipQueues : (s.setChan c ch).chipQueues = s.chipQueues := rfl
@[simp] theorem setChan_framesLeft : (s.setChan c ch).framesLeft = s.framesLeft := rfl
@[simp] theorem setChan_requests : (s.setChan c ch).requests = s.requests := rfl
@[simp] theorem setChan_busSum : (s.setChan c ch).busSum = s.busSum := rfl
@[simp] theorem setChan_mixOut : (s.setChan c ch).mixOut = s.mixOut := rfl
@[simp] theorem setChan_clipOut : (s.setChan c ch).clipOut = s.clipOut := rfl
@[simp] theorem setChan_frames : (s.setChan c ch).frames = s.frames := rfl
@[simp] theorem setChan_reads : (s.setChan c ch).reads = s.reads := rfl
@[simp] theorem setChan_ownSteps : (s.setChan c ch).ownSteps = s.ownSteps := rfl
@[simp] theorem setChan_inbox : (s.setChan c ch).inbox = s.inbox := rfl
@[simp] theorem setChan_later : (s.setChan c ch).later = s.later := rfl

/-- Replacing a channel changes that channel at most. -/
theorem setChan_onlyChannel : OnlyChannel c s (s.setChan c ch) := ⟨fun _ h => chan_setChan_ne s ch h, rfl⟩

@[simp] theorem setChan_chan_self : s.setChan c (s.chan c) = s := by
  simp [State.setChan, State.chan, PerChan.set_get]

@[simp] theorem setRegs_regs : ((s.setRegs c r).chan c).regs = r := by simp [State.setRegs]
@[simp] theorem setRegs_accn : ((s.setRegs c r).chan c).accn = (s.chan c).accn := by simp [State.setRegs]
@[simp] theorem setRegs_last : ((s.setRegs c r).chan c).last = (s.chan c).last := by simp [State.setRegs]
@[simp] theorem setRegs_phase : ((s.setRegs c r).chan c).phase = (s.chan c).phase := by simp [State.setRegs]
@[simp] theorem setRegs_out : ((s.setRegs c r).chan c).out = (s.chan c).out := by simp [State.setRegs]

/-- A register write changes its channel at most. -/
theorem setRegs_onlyChannel : OnlyChannel c s (s.setRegs c r) := setChan_onlyChannel _ _ _

variable (rest : List Byte)

@[simp] theorem withInbox_inbox : (s.withInbox rest).inbox = rest := rfl
@[simp] theorem withInbox_params : (s.withInbox rest).params = s.params := rfl
@[simp] theorem withInbox_chans : (s.withInbox rest).chans = s.chans := rfl
@[simp] theorem withInbox_chan : (s.withInbox rest).chan c = s.chan c := rfl
@[simp] theorem withInbox_mem : (s.withInbox rest).mem = s.mem := rfl
@[simp] theorem withInbox_framesLeft : (s.withInbox rest).framesLeft = s.framesLeft := rfl
@[simp] theorem withInbox_frames : (s.withInbox rest).frames = s.frames := rfl
@[simp] theorem withInbox_later : (s.withInbox rest).later = s.later := rfl
@[simp] theorem countOwn_params : s.countOwn.params = s.params := rfl
@[simp] theorem countOwn_chans : s.countOwn.chans = s.chans := rfl
@[simp] theorem countOwn_chan : s.countOwn.chan c = s.chan c := rfl
@[simp] theorem countOwn_mem : s.countOwn.mem = s.mem := rfl
@[simp] theorem countOwn_chipQueues : s.countOwn.chipQueues = s.chipQueues := rfl
@[simp] theorem countOwn_framesLeft : s.countOwn.framesLeft = s.framesLeft := rfl
@[simp] theorem countOwn_requests : s.countOwn.requests = s.requests := rfl
@[simp] theorem countOwn_frames : s.countOwn.frames = s.frames := rfl
@[simp] theorem countOwn_inbox : s.countOwn.inbox = s.inbox := rfl
@[simp] theorem countOwn_later : s.countOwn.later = s.later := rfl

end Machine
end Sys2Proof
end

