-- ==== Sys2Proof/Laws/Memory.lean ====
section
/-! SUPPORT. Laws/Memory.lean: every memory operation keeps the canonical form; a read after a write. -/

namespace Sys2Proof.Machine

/-- An address below every listed one reads as the fill. -/
theorem read_of_below {m : Memory} {a : Nat} (h : ∀ cell ∈ m, a < cell.1) : m.read a = Memory.fill := by
  induction m with
  | nil => rfl
  | cons cell rest ih =>
    have hlt : a < cell.1 := h cell (by simp)
    simp only [Memory.read, Nat.ne_of_lt hlt, if_false]
    exact ih fun x hx => h x (by simp [hx])

/-- The tail of a canonical memory is canonical, and lies above its head. -/
theorem wf_cons {cell : Host.Cell} {rest : Memory} :
    Memory.Wf (cell :: rest) ↔ (∀ x ∈ rest, cell.1 < x.1) ∧ cell.2 ≠ Memory.fill ∧ Memory.Wf rest := by
  simp only [Memory.Wf, List.map_cons, List.pairwise_cons, List.mem_map, List.mem_cons, forall_eq_or_imp]
  constructor
  · rintro ⟨⟨h1, h2⟩, h3, h4⟩
    exact ⟨fun x hx => h1 x.1 ⟨x, hx, rfl⟩, h3, h2, h4⟩
  · rintro ⟨h1, h3, h2, h4⟩
    exact ⟨⟨by rintro _ ⟨x, hx, rfl⟩; exact h1 x hx, h2⟩, h3, h4⟩

/-- A write lists no address but its own and those listed before. -/
theorem mem_write {m : Memory} {a : Nat} {b : Byte} {cell : Host.Cell} (h : cell ∈ m.write a b) :
    cell.1 = a ∨ cell ∈ m := by
  induction m with
  | nil =>
    simp only [Memory.write] at h
    split at h <;> simp_all
  | cons head rest ih =>
    simp only [Memory.write] at h
    split at h
    · split at h
      · exact .inr h
      · rcases List.mem_cons.1 h with rfl | h
        · exact .inl rfl
        · exact .inr h
    · split at h
      · rename_i hak
        split at h
        · exact .inr (by simp [h])
        · rcases List.mem_cons.1 h with rfl | h
          · exact .inl rfl
          · exact .inr (by simp [h])
      · rcases List.mem_cons.1 h with h | h
        · exact .inr (by simp [h])
        · rcases ih h with h | h
          · exact .inl h
          · exact .inr (by simp [h])

/-- A write keeps the canonical form. -/
theorem write_wf {m : Memory} (h : m.Wf) (a : Nat) (b : Byte) : (m.write a b).Wf := by
  induction m with
  | nil =>
    simp only [Memory.write]
    split <;> simp_all [Memory.Wf]
  | cons head rest ih =>
    obtain ⟨hlt, hne, hrest⟩ := wf_cons.1 h
    simp only [Memory.write]
    split
    · rename_i hak
      split
      · exact h
      · rename_i hb
        refine wf_cons.2 ⟨fun x hx => ?_, hb, h⟩
        rcases List.mem_cons.1 hx with rfl | hx
        · exact hak
        · exact Nat.lt_trans hak (hlt x hx)
    · split
      · rename_i hak
        split
        · exact hrest
        · rename_i hb
          exact wf_cons.2 ⟨fun x hx => hak ▸ hlt x hx, hb, hrest⟩
      · rename_i h1 h2
        refine wf_cons.2 ⟨fun x hx => ?_, hne, ih hrest⟩
        rcases mem_write hx with hx | hx
        · show head.1 < x.1
          omega
        · exact hlt x hx

/-- A read at the written address. -/
theorem read_write_same {m : Memory} (h : m.Wf) (a : Nat) (b : Byte) : (m.write a b).read a = b := by
  induction m with
  | nil =>
    simp only [Memory.write]
    split <;> simp_all [Memory.read]
  | cons head rest ih =>
    obtain ⟨hlt, hne, hrest⟩ := wf_cons.1 h
    simp only [Memory.write]
    split
    · rename_i hak
      split
      · rename_i hb
        subst hb
        refine read_of_below fun x hx => ?_
        rcases List.mem_cons.1 hx with rfl | hx
        · exact hak
        · exact Nat.lt_trans hak (hlt x hx)
      · simp [Memory.read]
    · split
      · rename_i hak
        split
        · rename_i hb
          subst hb
          exact read_of_below fun x hx => hak ▸ hlt x hx
        · simp [Memory.read]
      · rename_i h1 h2
        simp only [Memory.read, h2, if_false]
        exact ih hrest

/-- A read at any other address. -/
theorem read_write_other {m : Memory} {a a' : Nat} (b : Byte) (h : a' ≠ a) : (m.write a b).read a' = m.read a' := by
  induction m with
  | nil =>
    simp only [Memory.write]
    split <;> simp [Memory.read, h]
  | cons head rest ih =>
    obtain ⟨k, v⟩ := head
    by_cases h1 : a < k
    · by_cases h2 : b = Memory.fill <;> simp [Memory.write, Memory.read, h1, h2, h]
    · by_cases h3 : a = k
      · subst h3
        by_cases h2 : b = Memory.fill <;> simp [Memory.write, Memory.read, h2, h]
      · simp [Memory.write, Memory.read, h1, h3, ih]

/-- The memory of the reset state is canonical. -/
theorem reset_mem_wf : State.reset.mem.Wf := by decide

/-- A host store keeps the canonical form. -/
theorem hostStore_wf {s : State} (h : s.mem.Wf) (a : Nat) (b : Byte) : (s.hostStore a b).mem.Wf := by
  unfold State.hostStore
  split
  · exact write_wf h a b
  · exact h

end Sys2Proof.Machine
end

