-- ==== Sys2Proof/Laws/Channel.lean ====
section
/-! SUPPORT. Laws/Channel.lean: what the operations of one channel can do, said once. -/

namespace Sys2Proof.Machine

variable (p : Params) (m : Memory) (ch : Channel) (a : Addr)

/-- The three ends of a fetch (R150 to R152). -/
theorem endCompare_cases :
    (endMatch a ch.regs.endAddress = true ∧ loopBit ch.regs.control = true ∧ ch.endCompare a = ch.loopBack)
    ∨ (endMatch a ch.regs.endAddress = true ∧ loopBit ch.regs.control = false ∧ ch.endCompare a = ch.naturalStop a)
    ∨ (endMatch a ch.regs.endAddress = false
        ∧ ch.endCompare a = { ch with regs := { ch.regs with currentAddress := a } }) := by
  unfold Channel.endCompare
  cases endMatch a ch.regs.endAddress <;> cases loopBit ch.regs.control <;> simp

@[simp] theorem endCompare_phase : (ch.endCompare a).phase = ch.phase := by
  rcases endCompare_cases ch a with ⟨-, -, h⟩ | ⟨-, -, h⟩ | ⟨-, h⟩ <;> rw [h] <;> rfl
@[simp] theorem endCompare_out : (ch.endCompare a).out = ch.out := by
  rcases endCompare_cases ch a with ⟨-, -, h⟩ | ⟨-, -, h⟩ | ⟨-, h⟩ <;> rw [h] <;> rfl
@[simp] theorem endCompare_startAddress : (ch.endCompare a).regs.startAddress = ch.regs.startAddress := by
  rcases endCompare_cases ch a with ⟨-, -, h⟩ | ⟨-, -, h⟩ | ⟨-, h⟩ <;> rw [h] <;> rfl
@[simp] theorem endCompare_rateIncrement : (ch.endCompare a).regs.rateIncrement = ch.regs.rateIncrement := by
  rcases endCompare_cases ch a with ⟨-, -, h⟩ | ⟨-, -, h⟩ | ⟨-, h⟩ <;> rw [h] <;> rfl
@[simp] theorem endCompare_endAddress : (ch.endCompare a).regs.endAddress = ch.regs.endAddress := by
  rcases endCompare_cases ch a with ⟨-, -, h⟩ | ⟨-, -, h⟩ | ⟨-, h⟩ <;> rw [h] <;> rfl
@[simp] theorem endCompare_volume : (ch.endCompare a).regs.volume = ch.regs.volume := by
  rcases endCompare_cases ch a with ⟨-, -, h⟩ | ⟨-, -, h⟩ | ⟨-, h⟩ <;> rw [h] <;> rfl

/-- A fetch leaves the accumulator alone, or zeroes it (R152). -/
theorem endCompare_accn_le : (ch.endCompare a).accn ≤ ch.accn := by
  rcases endCompare_cases ch a with ⟨-, -, h⟩ | ⟨-, -, h⟩ | ⟨-, h⟩ <;> rw [h] <;>
    simp [Channel.loopBack, Channel.naturalStop]

/-- The only write to `control` sets bit 3 (R26). -/
theorem endCompare_control :
    (ch.endCompare a).regs.control = ch.regs.control ∨ (ch.endCompare a).regs.control = withStp ch.regs.control := by
  rcases endCompare_cases ch a with ⟨-, -, h⟩ | ⟨-, -, h⟩ | ⟨-, h⟩ <;> rw [h] <;>
    simp [Channel.loopBack, Channel.naturalStop]

/-- The advanced address (R176). -/
theorem advance_toNat (fmt : Format) : (advance fmt a).toNat = (a.toNat + stepBytes fmt) % 16777216 := by
  unfold advance
  rw [BitVec.toNat_add]
  cases fmt <;> simp [stepBytes]

/-- The end compare, on numbers (R150). -/
theorem endMatch_advance_iff (fmt : Format) (e : BitVec 16) :
    endMatch (advance fmt a) e = true ↔ (a.toNat + stepBytes fmt) % 16777216 % 65536 = e.toNat := by
  unfold endMatch
  rw [beq_iff_eq, ← BitVec.toNat_inj, BitVec.toNat_setWidth, advance_toNat]

@[simp] theorem tick_phase : (ch.tick p m).phase = ch.phase := by simp [Channel.tick, Channel.fetch]
@[simp] theorem tick_out : (ch.tick p m).out = ch.out := by simp [Channel.tick, Channel.fetch]
@[simp] theorem tick_startAddress : (ch.tick p m).regs.startAddress = ch.regs.startAddress := by
  simp [Channel.tick, Channel.fetch]
@[simp] theorem tick_rateIncrement : (ch.tick p m).regs.rateIncrement = ch.regs.rateIncrement := by
  simp [Channel.tick, Channel.fetch]
@[simp] theorem tick_endAddress : (ch.tick p m).regs.endAddress = ch.regs.endAddress := by
  simp [Channel.tick, Channel.fetch]
@[simp] theorem tick_volume : (ch.tick p m).regs.volume = ch.regs.volume := by simp [Channel.tick, Channel.fetch]

/-- A tick takes at least one `ACC_ONE` from the accumulator (R122). -/
theorem tick_accn_le : (ch.tick p m).accn ≤ ch.accn - accOne p := by
  unfold Channel.tick Channel.fetch
  exact endCompare_accn_le _ _

/-- A tick's only write to `control` sets bit 3 (R26). -/
theorem tick_control :
    (ch.tick p m).regs.control = ch.regs.control ∨ (ch.tick p m).regs.control = withStp ch.regs.control := by
  unfold Channel.tick Channel.fetch
  exact endCompare_control _ _

theorem withStp_withStp (ctl : Byte) : withStp (withStp ctl) = withStp ctl := by
  simp [withStp, BitVec.or_assoc]

/-- The ticks of an output sample keep what one tick keeps. -/
theorem ticks_keep (fuel : Nat) :
    (ch.ticks p m fuel).phase = ch.phase ∧ (ch.ticks p m fuel).out = ch.out
    ∧ (ch.ticks p m fuel).regs.startAddress = ch.regs.startAddress
    ∧ (ch.ticks p m fuel).regs.rateIncrement = ch.regs.rateIncrement
    ∧ (ch.ticks p m fuel).regs.endAddress = ch.regs.endAddress
    ∧ (ch.ticks p m fuel).regs.volume = ch.regs.volume
    ∧ ((ch.ticks p m fuel).regs.control = ch.regs.control
        ∨ (ch.ticks p m fuel).regs.control = withStp ch.regs.control) := by
  induction fuel generalizing ch with
  | zero => simp [Channel.ticks]
  | succ fuel ih =>
    unfold Channel.ticks
    split
    · obtain ⟨h1, h2, h3, h4, h5, h6, h7⟩ := ih (ch.tick p m)
      refine ⟨by simp [h1], by simp [h2], by simp [h3], by simp [h4], by simp [h5], by simp [h6], ?_⟩
      rcases h7 with h | h <;> rcases tick_control p m ch with h' | h' <;> rw [h, h'] <;>
        simp [withStp_withStp]
    · simp

/-- Enough ticks bring the accumulator below the threshold (R41, R123). -/
theorem ticks_accn_lt (fuel : Nat) (h : ch.accn < (fuel + 1) * accOne p) : (ch.ticks p m fuel).accn < accOne p := by
  induction fuel generalizing ch with
  | zero => simpa [Channel.ticks] using h
  | succ fuel ih =>
    unfold Channel.ticks
    split
    · apply ih
      have := tick_accn_le p m ch
      rw [Nat.succ_mul] at h
      omega
    · omega

/-- After the PLAYING branch the accumulator is below the threshold (R41). -/
theorem finish_accn_lt (hp : 0 < accOne p) : (ch.finish p m).accn < accOne p := by
  refine ticks_accn_lt p m ch _ ?_
  have := Nat.lt_div_mul_add hp (a := ch.accn)
  rw [Nat.succ_mul]
  exact this

/-- The threshold is positive when the output rate is (R9, R40). -/
theorem accOne_pos (hp : 0 < p.outputSampleRate) : 0 < accOne p := by
  have : 0 < ratioDen p :=
    Nat.div_pos (Nat.le_of_dvd hp (Nat.gcd_dvd_right _ _)) (Nat.gcd_pos_of_pos_right _ hp)
  unfold accOne
  omega

end Sys2Proof.Machine
end

