-- ==== Sys2Proof/Laws/Updates.lean ====
section
/-! SUPPORT. Laws/Updates.lean: what each shared update of the state leaves alone, one lemma per field, and the fields it
writes. -/

namespace Sys2Proof.Machine

variable (s : State)

/-! ### sumBuses -/

@[simp] theorem sumBuses_params : (s.sumBuses).params = s.params := rfl
@[simp] theorem sumBuses_chans : (s.sumBuses).chans = s.chans := rfl
@[simp] theorem sumBuses_masterVolume : (s.sumBuses).masterVolume = s.masterVolume := rfl
@[simp] theorem sumBuses_stereoSeparation : (s.sumBuses).stereoSeparation = s.stereoSeparation := rfl
@[simp] theorem sumBuses_gainPrimary : (s.sumBuses).gainPrimary = s.gainPrimary := rfl
@[simp] theorem sumBuses_gainCross : (s.sumBuses).gainCross = s.gainCross := rfl
@[simp] theorem sumBuses_mem : (s.sumBuses).mem = s.mem := rfl
@[simp] theorem sumBuses_chipQueues : (s.sumBuses).chipQueues = s.chipQueues := rfl
@[simp] theorem sumBuses_framesLeft : (s.sumBuses).framesLeft = s.framesLeft := rfl
@[simp] theorem sumBuses_requests : (s.sumBuses).requests = s.requests := rfl
@[simp] theorem sumBuses_mixOut : (s.sumBuses).mixOut = s.mixOut := rfl
@[simp] theorem sumBuses_clipOut : (s.sumBuses).clipOut = s.clipOut := rfl
@[simp] theorem sumBuses_frames : (s.sumBuses).frames = s.frames := rfl
@[simp] theorem sumBuses_reads : (s.sumBuses).reads = s.reads := rfl
@[simp] theorem sumBuses_ownSteps : (s.sumBuses).ownSteps = s.ownSteps := rfl
@[simp] theorem sumBuses_inbox : (s.sumBuses).inbox = s.inbox := rfl
@[simp] theorem sumBuses_later : (s.sumBuses).later = s.later := rfl

/-! ### applyMatrix -/

@[simp] theorem applyMatrix_params : (s.applyMatrix).params = s.params := rfl
@[simp] theorem applyMatrix_chans : (s.applyMatrix).chans = s.chans := rfl
@[simp] theorem applyMatrix_masterVolume : (s.applyMatrix).masterVolume = s.masterVolume := rfl
@[simp] theorem applyMatrix_stereoSeparation : (s.applyMatrix).stereoSeparation = s.stereoSeparation := rfl
@[simp] theorem applyMatrix_gainPrimary : (s.applyMatrix).gainPrimary = s.gainPrimary := rfl
@[simp] theorem applyMatrix_gainCross : (s.applyMatrix).gainCross = s.gainCross := rfl
@[simp] theorem applyMatrix_mem : (s.applyMatrix).mem = s.mem := rfl
@[simp] theorem applyMatrix_chipQueues : (s.applyMatrix).chipQueues = s.chipQueues := rfl
@[simp] theorem applyMatrix_framesLeft : (s.applyMatrix).framesLeft = s.framesLeft := rfl
@[simp] theorem applyMatrix_requests : (s.applyMatrix).requests = s.requests := rfl
@[simp] theorem applyMatrix_busSum : (s.applyMatrix).busSum = s.busSum := rfl
@[simp] theorem applyMatrix_clipOut : (s.applyMatrix).clipOut = s.clipOut := rfl
@[simp] theorem applyMatrix_frames : (s.applyMatrix).frames = s.frames := rfl
@[simp] theorem applyMatrix_reads : (s.applyMatrix).reads = s.reads := rfl
@[simp] theorem applyMatrix_ownSteps : (s.applyMatrix).ownSteps = s.ownSteps := rfl
@[simp] theorem applyMatrix_inbox : (s.applyMatrix).inbox = s.inbox := rfl
@[simp] theorem applyMatrix_later : (s.applyMatrix).later = s.later := rfl

/-! ### clipSide -/

@[simp] theorem clipSide_params (side : Side) : (s.clipSide side).params = s.params := by cases side <;> rfl
@[simp] theorem clipSide_chans (side : Side) : (s.clipSide side).chans = s.chans := by cases side <;> rfl
@[simp] theorem clipSide_masterVolume (side : Side) : (s.clipSide side).masterVolume = s.masterVolume := by cases side <;> rfl
@[simp] theorem clipSide_stereoSeparation (side : Side) : (s.clipSide side).stereoSeparation = s.stereoSeparation := by cases side <;> rfl
@[simp] theorem clipSide_gainPrimary (side : Side) : (s.clipSide side).gainPrimary = s.gainPrimary := by cases side <;> rfl
@[simp] theorem clipSide_gainCross (side : Side) : (s.clipSide side).gainCross = s.gainCross := by cases side <;> rfl
@[simp] theorem clipSide_mem (side : Side) : (s.clipSide side).mem = s.mem := by cases side <;> rfl
@[simp] theorem clipSide_chipQueues (side : Side) : (s.clipSide side).chipQueues = s.chipQueues := by cases side <;> rfl
@[simp] theorem clipSide_framesLeft (side : Side) : (s.clipSide side).framesLeft = s.framesLeft := by cases side <;> rfl
@[simp] theorem clipSide_requests (side : Side) : (s.clipSide side).requests = s.requests := by cases side <;> rfl
@[simp] theorem clipSide_busSum (side : Side) : (s.clipSide side).busSum = s.busSum := by cases side <;> rfl
@[simp] theorem clipSide_mixOut (side : Side) : (s.clipSide side).mixOut = s.mixOut := by cases side <;> rfl
@[simp] theorem clipSide_frames (side : Side) : (s.clipSide side).frames = s.frames := by cases side <;> rfl
@[simp] theorem clipSide_reads (side : Side) : (s.clipSide side).reads = s.reads := by cases side <;> rfl
@[simp] theorem clipSide_ownSteps (side : Side) : (s.clipSide side).ownSteps = s.ownSteps := by cases side <;> rfl
@[simp] theorem clipSide_inbox (side : Side) : (s.clipSide side).inbox = s.inbox := by cases side <;> rfl
@[simp] theorem clipSide_later (side : Side) : (s.clipSide side).later = s.later := by cases side <;> rfl

/-! ### outputFrame -/

@[simp] theorem outputFrame_params : (s.outputFrame).params = s.params := rfl
@[simp] theorem outputFrame_masterVolume : (s.outputFrame).masterVolume = s.masterVolume := rfl
@[simp] theorem outputFrame_stereoSeparation : (s.outputFrame).stereoSeparation = s.stereoSeparation := rfl
@[simp] theorem outputFrame_gainPrimary : (s.outputFrame).gainPrimary = s.gainPrimary := rfl
@[simp] theorem outputFrame_gainCross : (s.outputFrame).gainCross = s.gainCross := rfl
@[simp] theorem outputFrame_mem : (s.outputFrame).mem = s.mem := rfl
@[simp] theorem outputFrame_framesLeft : (s.outputFrame).framesLeft = s.framesLeft := rfl
@[simp] theorem outputFrame_requests : (s.outputFrame).requests = s.requests := rfl
@[simp] theorem outputFrame_busSum : (s.outputFrame).busSum = s.busSum := rfl
@[simp] theorem outputFrame_mixOut : (s.outputFrame).mixOut = s.mixOut := rfl
@[simp] theorem outputFrame_clipOut : (s.outputFrame).clipOut = s.clipOut := rfl
@[simp] theorem outputFrame_reads : (s.outputFrame).reads = s.reads := rfl
@[simp] theorem outputFrame_ownSteps : (s.outputFrame).ownSteps = s.ownSteps := rfl
@[simp] theorem outputFrame_inbox : (s.outputFrame).inbox = s.inbox := rfl
@[simp] theorem outputFrame_later : (s.outputFrame).later = s.later := rfl

/-! ### passAdvance -/

@[simp] theorem passAdvance_params : (s.passAdvance).params = s.params := by
  unfold State.passAdvance; split <;> [split <;> rfl; rfl]
@[simp] theorem passAdvance_chans : (s.passAdvance).chans = s.chans := by
  unfold State.passAdvance; split <;> [split <;> rfl; rfl]
@[simp] theorem passAdvance_masterVolume : (s.passAdvance).masterVolume = s.masterVolume := by
  unfold State.passAdvance; split <;> [split <;> rfl; rfl]
@[simp] theorem passAdvance_stereoSeparation : (s.passAdvance).stereoSeparation = s.stereoSeparation := by
  unfold State.passAdvance; split <;> [split <;> rfl; rfl]
@[simp] theorem passAdvance_gainPrimary : (s.passAdvance).gainPrimary = s.gainPrimary := by
  unfold State.passAdvance; split <;> [split <;> rfl; rfl]
@[simp] theorem passAdvance_gainCross : (s.passAdvance).gainCross = s.gainCross := by
  unfold State.passAdvance; split <;> [split <;> rfl; rfl]
@[simp] theorem passAdvance_mem : (s.passAdvance).mem = s.mem := by
  unfold State.passAdvance; split <;> [split <;> rfl; rfl]
@[simp] theorem passAdvance_chipQueues : (s.passAdvance).chipQueues = s.chipQueues := by
  unfold State.passAdvance; split <;> [split <;> rfl; rfl]
@[simp] theorem passAdvance_busSum : (s.passAdvance).busSum = s.busSum := by
  unfold State.passAdvance; split <;> [split <;> rfl; rfl]
@[simp] theorem passAdvance_mixOut : (s.passAdvance).mixOut = s.mixOut := by
  unfold State.passAdvance; split <;> [split <;> rfl; rfl]
@[simp] theorem passAdvance_clipOut : (s.passAdvance).clipOut = s.clipOut := by
  unfold State.passAdvance; split <;> [split <;> rfl; rfl]
@[simp] theorem passAdvance_frames : (s.passAdvance).frames = s.frames := by
  unfold State.passAdvance; split <;> [split <;> rfl; rfl]
@[simp] theorem passAdvance_reads : (s.passAdvance).reads = s.reads := by
  unfold State.passAdvance; split <;> [split <;> rfl; rfl]
@[simp] theorem passAdvance_ownSteps : (s.passAdvance).ownSteps = s.ownSteps := by
  unfold State.passAdvance; split <;> [split <;> rfl; rfl]
@[simp] theorem passAdvance_inbox : (s.passAdvance).inbox = s.inbox := by
  unfold State.passAdvance; split <;> [split <;> rfl; rfl]
@[simp] theorem passAdvance_later : (s.passAdvance).later = s.later := by
  unfold State.passAdvance; split <;> [split <;> rfl; rfl]

/-! ### updateGains -/

@[simp] theorem updateGains_params : (s.updateGains).params = s.params := rfl
@[simp] theorem updateGains_chans : (s.updateGains).chans = s.chans := rfl
@[simp] theorem updateGains_masterVolume : (s.updateGains).masterVolume = s.masterVolume := rfl
@[simp] theorem updateGains_stereoSeparation : (s.updateGains).stereoSeparation = s.stereoSeparation := rfl
@[simp] theorem updateGains_mem : (s.updateGains).mem = s.mem := rfl
@[simp] theorem updateGains_chipQueues : (s.updateGains).chipQueues = s.chipQueues := rfl
@[simp] theorem updateGains_framesLeft : (s.updateGains).framesLeft = s.framesLeft := rfl
@[simp] theorem updateGains_requests : (s.updateGains).requests = s.requests := rfl
@[simp] theorem updateGains_busSum : (s.updateGains).busSum = s.busSum := rfl
@[simp] theorem updateGains_mixOut : (s.updateGains).mixOut = s.mixOut := rfl
@[simp] theorem updateGains_clipOut : (s.updateGains).clipOut = s.clipOut := rfl
@[simp] theorem updateGains_frames : (s.updateGains).frames = s.frames := rfl
@[simp] theorem updateGains_reads : (s.updateGains).reads = s.reads := rfl
@[simp] theorem updateGains_ownSteps : (s.updateGains).ownSteps = s.ownSteps := rfl
@[simp] theorem updateGains_inbox : (s.updateGains).inbox = s.inbox := rfl
@[simp] theorem updateGains_later : (s.updateGains).later = s.later := rfl

/-! ### storeConfig -/

@[simp] theorem storeConfig_params (v x : Option Int) : (s.storeConfig v x).params = s.params := rfl
@[simp] theorem storeConfig_chans (v x : Option Int) : (s.storeConfig v x).chans = s.chans := rfl
@[simp] theorem storeConfig_gainPrimary (v x : Option Int) : (s.storeConfig v x).gainPrimary = s.gainPrimary := rfl
@[simp] theorem storeConfig_gainCross (v x : Option Int) : (s.storeConfig v x).gainCross = s.gainCross := rfl
@[simp] theorem storeConfig_mem (v x : Option Int) : (s.storeConfig v x).mem = s.mem := rfl
@[simp] theorem storeConfig_chipQueues (v x : Option Int) : (s.storeConfig v x).chipQueues = s.chipQueues := rfl
@[simp] theorem storeConfig_framesLeft (v x : Option Int) : (s.storeConfig v x).framesLeft = s.framesLeft := rfl
@[simp] theorem storeConfig_requests (v x : Option Int) : (s.storeConfig v x).requests = s.requests := rfl
@[simp] theorem storeConfig_busSum (v x : Option Int) : (s.storeConfig v x).busSum = s.busSum := rfl
@[simp] theorem storeConfig_mixOut (v x : Option Int) : (s.storeConfig v x).mixOut = s.mixOut := rfl
@[simp] theorem storeConfig_clipOut (v x : Option Int) : (s.storeConfig v x).clipOut = s.clipOut := rfl
@[simp] theorem storeConfig_frames (v x : Option Int) : (s.storeConfig v x).frames = s.frames := rfl
@[simp] theorem storeConfig_reads (v x : Option Int) : (s.storeConfig v x).reads = s.reads := rfl
@[simp] theorem storeConfig_ownSteps (v x : Option Int) : (s.storeConfig v x).ownSteps = s.ownSteps := rfl
@[simp] theorem storeConfig_inbox (v x : Option Int) : (s.storeConfig v x).inbox = s.inbox := rfl
@[simp] theorem storeConfig_later (v x : Option Int) : (s.storeConfig v x).later = s.later := rfl

/-! ### supply -/

@[simp] theorem supply_params (k : Nat) (x : Sample) : (s.supply k x).params = s.params := rfl
@[simp] theorem supply_chans (k : Nat) (x : Sample) : (s.supply k x).chans = s.chans := rfl
@[simp] theorem supply_masterVolume (k : Nat) (x : Sample) : (s.supply k x).masterVolume = s.masterVolume := rfl
@[simp] theorem supply_stereoSeparation (k : Nat) (x : Sample) : (s.supply k x).stereoSeparation = s.stereoSeparation := rfl
@[simp] theorem supply_gainPrimary (k : Nat) (x : Sample) : (s.supply k x).gainPrimary = s.gainPrimary := rfl
@[simp] theorem supply_gainCross (k : Nat) (x : Sample) : (s.supply k x).gainCross = s.gainCross := rfl
@[simp] theorem supply_mem (k : Nat) (x : Sample) : (s.supply k x).mem = s.mem := rfl
@[simp] theorem supply_framesLeft (k : Nat) (x : Sample) : (s.supply k x).framesLeft = s.framesLeft := rfl
@[simp] theorem supply_requests (k : Nat) (x : Sample) : (s.supply k x).requests = s.requests := rfl
@[simp] theorem supply_busSum (k : Nat) (x : Sample) : (s.supply k x).busSum = s.busSum := rfl
@[simp] theorem supply_mixOut (k : Nat) (x : Sample) : (s.supply k x).mixOut = s.mixOut := rfl
@[simp] theorem supply_clipOut (k : Nat) (x : Sample) : (s.supply k x).clipOut = s.clipOut := rfl
@[simp] theorem supply_frames (k : Nat) (x : Sample) : (s.supply k x).frames = s.frames := rfl
@[simp] theorem supply_reads (k : Nat) (x : Sample) : (s.supply k x).reads = s.reads := rfl
@[simp] theorem supply_ownSteps (k : Nat) (x : Sample) : (s.supply k x).ownSteps = s.ownSteps := rfl
@[simp] theorem supply_inbox (k : Nat) (x : Sample) : (s.supply k x).inbox = s.inbox := rfl
@[simp] theorem supply_later (k : Nat) (x : Sample) : (s.supply k x).later = s.later := rfl

/-! ### requestFrames -/

@[simp] theorem requestFrames_params (n : Nat) : (s.requestFrames n).params = s.params := by
  unfold State.requestFrames; split <;> [rfl; split <;> rfl]
@[simp] theorem requestFrames_chans (n : Nat) : (s.requestFrames n).chans = s.chans := by
  unfold State.requestFrames; split <;> [rfl; split <;> rfl]
@[simp] theorem requestFrames_masterVolume (n : Nat) : (s.requestFrames n).masterVolume = s.masterVolume := by
  unfold State.requestFrames; split <;> [rfl; split <;> rfl]
@[simp] theorem requestFrames_stereoSeparation (n : Nat) : (s.requestFrames n).stereoSeparation = s.stereoSeparation := by
  unfold State.requestFrames; split <;> [rfl; split <;> rfl]
@[simp] theorem requestFrames_gainPrimary (n : Nat) : (s.requestFrames n).gainPrimary = s.gainPrimary := by
  unfold State.requestFrames; split <;> [rfl; split <;> rfl]
@[simp] theorem requestFrames_gainCross (n : Nat) : (s.requestFrames n).gainCross = s.gainCross := by
  unfold State.requestFrames; split <;> [rfl; split <;> rfl]
@[simp] theorem requestFrames_mem (n : Nat) : (s.requestFrames n).mem = s.mem := by
  unfold State.requestFrames; split <;> [rfl; split <;> rfl]
@[simp] theorem requestFrames_chipQueues (n : Nat) : (s.requestFrames n).chipQueues = s.chipQueues := by
  unfold State.requestFrames; split <;> [rfl; split <;> rfl]
@[simp] theorem requestFrames_busSum (n : Nat) : (s.requestFrames n).busSum = s.busSum := by
  unfold State.requestFrames; split <;> [rfl; split <;> rfl]
@[simp] theorem requestFrames_mixOut (n : Nat) : (s.requestFrames n).mixOut = s.mixOut := by
  unfold State.requestFrames; split <;> [rfl; split <;> rfl]
@[simp] theorem requestFrames_clipOut (n : Nat) : (s.requestFrames n).clipOut = s.clipOut := by
  unfold State.requestFrames; split <;> [rfl; split <;> rfl]
@[simp] theorem requestFrames_frames (n : Nat) : (s.requestFrames n).frames = s.frames := by
  unfold State.requestFrames; split <;> [rfl; split <;> rfl]
@[simp] theorem requestFrames_reads (n : Nat) : (s.requestFrames n).reads = s.reads := by
  unfold State.requestFrames; split <;> [rfl; split <;> rfl]
@[simp] theorem requestFrames_ownSteps (n : Nat) : (s.requestFrames n).ownSteps = s.ownSteps := by
  unfold State.requestFrames; split <;> [rfl; split <;> rfl]
@[simp] theorem requestFrames_inbox (n : Nat) : (s.requestFrames n).inbox = s.inbox := by
  unfold State.requestFrames; split <;> [rfl; split <;> rfl]
@[simp] theorem requestFrames_later (n : Nat) : (s.requestFrames n).later = s.later := by
  unfold State.requestFrames; split <;> [rfl; split <;> rfl]

/-! ### hostStore -/

@[simp] theorem hostStore_params (a : Nat) (b : Byte) : (s.hostStore a b).params = s.params := by
  unfold State.hostStore; split <;> rfl
@[simp] theorem hostStore_chans (a : Nat) (b : Byte) : (s.hostStore a b).chans = s.chans := by
  unfold State.hostStore; split <;> rfl
@[simp] theorem hostStore_masterVolume (a : Nat) (b : Byte) : (s.hostStore a b).masterVolume = s.masterVolume := by
  unfold State.hostStore; split <;> rfl
@[simp] theorem hostStore_stereoSeparation (a : Nat) (b : Byte) : (s.hostStore a b).stereoSeparation = s.stereoSeparation := by
  unfold State.hostStore; split <;> rfl
@[simp] theorem hostStore_gainPrimary (a : Nat) (b : Byte) : (s.hostStore a b).gainPrimary = s.gainPrimary := by
  unfold State.hostStore; split <;> rfl
@[simp] theorem hostStore_gainCross (a : Nat) (b : Byte) : (s.hostStore a b).gainCross = s.gainCross := by
  unfold State.hostStore; split <;> rfl
@[simp] theorem hostStore_chipQueues (a : Nat) (b : Byte) : (s.hostStore a b).chipQueues = s.chipQueues := by
  unfold State.hostStore; split <;> rfl
@[simp] theorem hostStore_framesLeft (a : Nat) (b : Byte) : (s.hostStore a b).framesLeft = s.framesLeft := by
  unfold State.hostStore; split <;> rfl
@[simp] theorem hostStore_requests (a : Nat) (b : Byte) : (s.hostStore a b).requests = s.requests := by
  unfold State.hostStore; split <;> rfl
@[simp] theorem hostStore_busSum (a : Nat) (b : Byte) : (s.hostStore a b).busSum = s.busSum := by
  unfold State.hostStore; split <;> rfl
@[simp] theorem hostStore_mixOut (a : Nat) (b : Byte) : (s.hostStore a b).mixOut = s.mixOut := by
  unfold State.hostStore; split <;> rfl
@[simp] theorem hostStore_clipOut (a : Nat) (b : Byte) : (s.hostStore a b).clipOut = s.clipOut := by
  unfold State.hostStore; split <;> rfl
@[simp] theorem hostStore_frames (a : Nat) (b : Byte) : (s.hostStore a b).frames = s.frames := by
  unfold State.hostStore; split <;> rfl
@[simp] theorem hostStore_reads (a : Nat) (b : Byte) : (s.hostStore a b).reads = s.reads := by
  unfold State.hostStore; split <;> rfl
@[simp] theorem hostStore_ownSteps (a : Nat) (b : Byte) : (s.hostStore a b).ownSteps = s.ownSteps := by
  unfold State.hostStore; split <;> rfl
@[simp] theorem hostStore_inbox (a : Nat) (b : Byte) : (s.hostStore a b).inbox = s.inbox := by
  unfold State.hostStore; split <;> rfl
@[simp] theorem hostStore_later (a : Nat) (b : Byte) : (s.hostStore a b).later = s.later := by
  unfold State.hostStore; split <;> rfl

/-! ### The fields written -/

theorem sumBuses_busSum : s.sumBuses.busSum = ⟨busTotal .left s.sources, busTotal .right s.sources⟩ := rfl
theorem applyMatrix_mixOut : s.applyMatrix.mixOut = mixMatrixOf s.gainPrimary s.gainCross s.busSum := rfl
theorem outputFrame_frames : s.outputFrame.frames = s.frames ++ [s.clipOut] := rfl
theorem outputFrame_chans : s.outputFrame.chans = s.chans.map fun ch => { ch with out := ch.out.tail } := rfl
theorem outputFrame_chipQueues : s.outputFrame.chipQueues = s.chipQueues.map List.tail := rfl
theorem supply_chipQueues (k : Nat) (x : Sample) :
    (s.supply k x).chipQueues = s.chipQueues.modify k (· ++ [x]) := rfl

/-- Where the pass boundary goes after a frame (R270). -/
theorem passAdvance_cases :
    (s.framesLeft ≤ 1 ∧ s.requests = [] ∧ s.passAdvance = { s with framesLeft := 0 })
    ∨ (s.framesLeft ≤ 1 ∧ ∃ n rest, s.requests = n :: rest ∧ s.passAdvance = { s with framesLeft := n, requests := rest })
    ∨ (1 < s.framesLeft ∧ s.passAdvance = { s with framesLeft := s.framesLeft - 1 }) := by
  unfold State.passAdvance
  split
  · rename_i h
    cases hr : s.requests with
    | nil => exact .inl ⟨h, rfl, rfl⟩
    | cons n rest => exact .inr (.inl ⟨h, n, rest, rfl, rfl⟩)
  · exact .inr (.inr ⟨by omega, rfl⟩)

/-! ### frameStep: the five updates of a frame together -/

@[simp] theorem frameStep_params : s.frameStep.params = s.params := by simp [State.frameStep]
@[simp] theorem frameStep_masterVolume : s.frameStep.masterVolume = s.masterVolume := by simp [State.frameStep]
@[simp] theorem frameStep_stereoSeparation : s.frameStep.stereoSeparation = s.stereoSeparation := by simp [State.frameStep]
@[simp] theorem frameStep_gainPrimary : s.frameStep.gainPrimary = s.gainPrimary := by simp [State.frameStep]
@[simp] theorem frameStep_gainCross : s.frameStep.gainCross = s.gainCross := by simp [State.frameStep]
@[simp] theorem frameStep_mem : s.frameStep.mem = s.mem := by simp [State.frameStep]
@[simp] theorem frameStep_reads : s.frameStep.reads = s.reads := by simp [State.frameStep]
@[simp] theorem frameStep_ownSteps : s.frameStep.ownSteps = s.ownSteps := by simp [State.frameStep]
@[simp] theorem frameStep_inbox : s.frameStep.inbox = s.inbox := by simp [State.frameStep]
@[simp] theorem frameStep_later : s.frameStep.later = s.later := by simp [State.frameStep]

theorem frameStep_chans : s.frameStep.chans = s.chans.map fun ch => { ch with out := ch.out.tail } := by
  simp [State.frameStep, outputFrame_chans]

theorem frameStep_chipQueues : s.frameStep.chipQueues = s.chipQueues.map List.tail := by
  simp [State.frameStep, outputFrame_chipQueues]

/-- The frame output is the clipped matrix of the bus sums (R245). -/
theorem frameStep_frames :
    s.frameStep.frames = s.frames ++ [clipPair (mixMatrixOf s.gainPrimary s.gainCross
      ⟨busTotal .left s.sources, busTotal .right s.sources⟩)] := by
  simp [State.frameStep, outputFrame_frames, State.clipSide, clipPair, State.applyMatrix, State.sumBuses]

/-! ### restart -/

@[simp] theorem restart_params : s.restart.params = s.params := rfl
@[simp] theorem restart_mem : s.restart.mem = s.mem := rfl
@[simp] theorem restart_inbox : s.restart.inbox = s.inbox := rfl
@[simp] theorem restart_later : s.restart.later = s.later := rfl
@[simp] theorem restart_ownSteps : s.restart.ownSteps = s.ownSteps := rfl

theorem restart_chan (c : Chan) : s.restart.chan c = Channel.initial (s.params.regReset.get c) := PerChan.get_map _ _ _

end Sys2Proof.Machine
end

