-- ==== Sys2Proof/Laws/Exec.lean ====
section
/-! SUPPORT. Laws/Exec.lean: what the shared operations of the meanings answer, said once. -/

namespace Sys2Proof.Machine

variable (s t u : State)

/-- A step that may be taken: the next state is its own, or the state as it was (log 3). -/
theorem when_eq_next {e : Bool} (h : s.when e u = .next t) : (e = true ∧ t = u) ∨ (e = false ∧ t = s) := by
  cases e <;> simp_all [State.when]

/-- A step that may not be taken leaves the state (log 3). -/
theorem when_of_ne {e : Bool} (h : e ≠ true) : s.when e u = .next s := by
  cases e
  · rfl
  · exact absurd rfl h

@[simp] theorem when_true : s.when true u = .next u := rfl
@[simp] theorem when_false : s.when false u = .next s := rfl

/-- The enabling conditions of Safety.lean are the ones the operations test. -/
theorem canBegin_iff (c : Chan) : s.canBegin c = true ↔ OwesSample s c := by
  simp [State.canBegin, OwesSample, and_assoc]

theorem canTick_iff (c : Chan) : s.canTick c = true ↔ OwesTick s c := by
  simp [State.canTick, OwesTick, and_assoc]

theorem canEmit_iff (c : Chan) : s.canEmit c = true ↔ OwesEmit s c := by
  simp [State.canEmit, OwesEmit, and_assoc]

theorem frameReady_iff : s.frameReady = true ↔ OwesFrame s := by
  simp [State.frameReady, OwesFrame, PerChan.toList, PerChan.Forall, and_assoc]

theorem canDraw_iff (k : Nat) : s.canDraw k = true ↔ ∃ q, OwesDraw s k q := by
  unfold State.canDraw OwesDraw
  cases s.chipQueues[k]? <;> simp

/-- What the tests of the control byte say of its bits (R141). -/
theorem stopped_iff (ctl : Byte) : stopped ctl = true ↔ ctl.getLsbD 7 = false ∨ ctl.getLsbD 3 = true := by
  simp [stopped, enBit, stpBit]

/-- The class of a control byte, by the mask and match of its row (R94). -/
theorem ctrlClass_idleDisabled_iff (ctl : Byte) : ctrlClass ctl = .idleDisabled ↔ ctl &&& 0x80 = 0x00 := by
  revert ctl; decide +kernel

theorem ctrlClass_idleStopped_iff (ctl : Byte) : ctrlClass ctl = .idleStopped ↔ ctl &&& 0x88 = 0x88 := by
  revert ctl; decide +kernel

/-- An enabled tick is taken by `RC.TICK` and by `VOL.SCALE` alike (R122, log 4). -/
theorem exec_tick {c : Chan} (h : OwesTick s c) :
    exec (.rcTick c) s = .next (s.tickChan c) ∧ exec (.volScale c) s = .next (s.tickChan c) := by
  simp [exec, execRcTick, execVolScale, (canTick_iff s c).2 h]

/-- An enabled `CH.BEGIN` is taken (R141). -/
theorem exec_chBegin {c : Chan} (h : OwesSample s c) : exec (.chBegin c) s = .next (s.beginChan c) := by
  simp [exec, execChBegin, (canBegin_iff s c).2 h]

/-- An enabled `CH.EMIT` is taken (R124). -/
theorem exec_chEmit {c : Chan} (h : OwesEmit s c) :
    exec (.chEmit c) s = .next (s.setChan c (s.chan c).emit) := by
  simp [exec, execChEmit, (canEmit_iff s c).2 h]

/-! ## What an operation can do -/

/-- The effects an operation can have, each with the condition under which it has it. -/
inductive Effect (s : State) : Instr → State → Prop
  | nothing (i : Instr) : Effect s i s
  | sampleBegun (i : Instr) (c : Chan) : channelOf i = some c → OwesSample s c → Effect s i (s.beginChan c)
  | sampleMade (c : Chan) : OwesSample s c →
      Effect s (.chStep c) (s.setChan c ((s.chan c).step s.params s.mem))
  | ticked (i : Instr) (c : Chan) : channelOf i = some c → i ≠ .chStep c → OwesTick s c → Effect s i (s.tickChan c)
  | emitted (c : Chan) : OwesEmit s c → Effect s (.chEmit c) (s.setChan c (s.chan c).emit)
  | supplied (k : Nat) (x : Sample) (q : List Sample) : OwesDraw s k q → Effect s (.srcIn k x) (s.supply k x)
  | summed : OwesFrame s → Effect s .mixSum s.sumBuses
  | mixed : s.params.renderEnabled = true → Effect s .mixMatrix s.applyMatrix
  | clipped (side : Side) : s.params.renderEnabled = true → Effect s (.clipS16 side) (s.clipSide side)
  | frameMade : OwesFrame s → Effect s .frameOut s.frameStep
  | configured (v x : Option Int) : Effect s (.cfgSet v x) (s.storeConfig v x).updateGains
  | gainsUpdated : Effect s .gainUpdate s.updateGains
  | fieldWritten (c : Chan) (f : RegField) (v : Nat) :
      Effect s (fieldWrite c f v) (s.setRegs c (writeField (s.chan c).regs f v))
  | byteWritten (i : Instr) (c : Chan) (off : Nat) (b : Byte) : byteWriteTarget s.params i = some (c, off) →
      channelOf i = none → Effect s i (s.hostByte c off b)
  | fieldRead (c : Chan) (f : RegField) :
      Effect s (.hrField c f) { s with reads := s.reads ++ [⟨c, f, readFieldValue (s.chan c).regs f⟩] }
  | stored (a : Nat) (b : Byte) : Effect s (.memWr a b) (s.hostStore a b)
  | requested (n : Nat) : Effect s (.render n) (s.requestFrames n)
  | restarted : Effect s .reset s.restart

/-- An operation answers a next state, and that state is one of the effects above. -/
theorem exec_effect (i : Instr) (s : State) : ∃ t, exec i s = .next t ∧ Effect s i t := by
  have guarded : ∀ (e : Bool) (u : State), (e = true → Effect s i u) → ∃ t, s.when e u = .next t ∧ Effect s i t := by
    intro e u h
    cases e
    · exact ⟨s, rfl, .nothing i⟩
    · exact ⟨u, rfl, h rfl⟩
  cases i with
  | chIdleDisabled c ctl =>
    exact guarded _ _ fun h => .sampleBegun _ c rfl ((canBegin_iff s c).1 (Bool.and_eq_true_iff.1 h).1)
  | chIdleStopped c ctl =>
    exact guarded _ _ fun h => .sampleBegun _ c rfl ((canBegin_iff s c).1 (Bool.and_eq_true_iff.1 h).1)
  | fetchLo4 c ctl =>
    exact guarded _ _ fun h =>
      .ticked _ c rfl nofun ((canTick_iff s c).1 (Bool.and_eq_true_iff.1 (Bool.and_eq_true_iff.1 h).1).1)
  | fetchHi4 c ctl =>
    exact guarded _ _ fun h =>
      .ticked _ c rfl nofun ((canTick_iff s c).1 (Bool.and_eq_true_iff.1 (Bool.and_eq_true_iff.1 h).1).1)
  | fetchB8 c ctl =>
    exact guarded _ _ fun h =>
      .ticked _ c rfl nofun ((canTick_iff s c).1 (Bool.and_eq_true_iff.1 (Bool.and_eq_true_iff.1 h).1).1)
  | fetchW16 c ctl =>
    exact guarded _ _ fun h =>
      .ticked _ c rfl nofun ((canTick_iff s c).1 (Bool.and_eq_true_iff.1 (Bool.and_eq_true_iff.1 h).1).1)
  | hwByte0 c b => exact ⟨_, rfl, .byteWritten _ c 0x0 b rfl rfl⟩
  | hwByte1 c b => exact ⟨_, rfl, .byteWritten _ c 0x1 b rfl rfl⟩
  | hwByte2 c b => exact ⟨_, rfl, .byteWritten _ c 0x2 b rfl rfl⟩
  | hwByte3 c b => exact ⟨_, rfl, .byteWritten _ c 0x3 b rfl rfl⟩
  | hwByte4 c b => exact ⟨_, rfl, .byteWritten _ c 0x4 b rfl rfl⟩
  | hwByte5 c b => exact ⟨_, rfl, .byteWritten _ c 0x5 b rfl rfl⟩
  | hwByte6 c b => exact ⟨_, rfl, .byteWritten _ c 0x6 b rfl rfl⟩
  | hwByte7 c b => exact ⟨_, rfl, .byteWritten _ c 0x7 b rfl rfl⟩
  | hwByte8 c b => exact ⟨_, rfl, .byteWritten _ c 0x8 b rfl rfl⟩
  | hwByte9 c b => exact ⟨_, rfl, .byteWritten _ c 0x9 b rfl rfl⟩
  | hwByteA c b => exact ⟨_, rfl, .byteWritten _ c 0xA b rfl rfl⟩
  | hwByteB c b => exact ⟨_, rfl, .byteWritten _ c 0xB b rfl rfl⟩
  | hwByteC c b => exact ⟨_, rfl, .byteWritten _ c 0xC b rfl rfl⟩
  | noneD c b => exact ⟨_, rfl, .nothing _⟩
  | noneE c b => exact ⟨_, rfl, .nothing _⟩
  | noneF c b => exact ⟨_, rfl, .nothing _⟩
  | chStep c => exact guarded _ _ fun h => .sampleMade c ((canBegin_iff s c).1 h)
  | chBegin c => exact guarded _ _ fun h => .sampleBegun _ c rfl ((canBegin_iff s c).1 h)
  | rcAdd c => exact guarded _ _ fun h => .sampleBegun _ c rfl ((canBegin_iff s c).1 (Bool.and_eq_true_iff.1 h).1)
  | rcTick c => exact guarded _ _ fun h => .ticked _ c rfl nofun ((canTick_iff s c).1 h)
  | chEmit c => exact guarded _ _ fun h => .emitted c ((canEmit_iff s c).1 h)
  | volScale c => exact guarded _ _ fun h => .ticked _ c rfl nofun ((canTick_iff s c).1 h)
  | endLoop c =>
    exact guarded _ _ fun h => .ticked _ c rfl nofun ((canTick_iff s c).1 (Bool.and_eq_true_iff.1 h).1)
  | endStop c =>
    exact guarded _ _ fun h => .ticked _ c rfl nofun ((canTick_iff s c).1 (Bool.and_eq_true_iff.1 h).1)
  | srcIn k x =>
    exact guarded _ _ fun h => let ⟨q, hq⟩ := (canDraw_iff s k).1 h; .supplied k x q hq
  | mixSum => exact guarded _ _ fun h => .summed ((frameReady_iff s).1 h)
  | mixMatrix => exact guarded _ _ fun h => .mixed h
  | clipS16 side => exact guarded _ _ fun h => .clipped side h
  | frameOut => exact guarded _ _ fun h => .frameMade ((frameReady_iff s).1 h)
  | cfgSet v x => exact ⟨_, rfl, .configured v x⟩
  | gainUpdate => exact ⟨_, rfl, .gainsUpdated⟩
  | hwControl c v => exact ⟨_, rfl, .fieldWritten c .control v⟩
  | hwStart c v => exact ⟨_, rfl, .fieldWritten c .startAddress v⟩
  | hwRate c v => exact ⟨_, rfl, .fieldWritten c .rateIncrement v⟩
  | hwEnd c v => exact ⟨_, rfl, .fieldWritten c .endAddress v⟩
  | hwVolume c v => exact ⟨_, rfl, .fieldWritten c .volume v⟩
  | hwCurrent c v => exact ⟨_, rfl, .fieldWritten c .currentAddress v⟩
  | hwByte a b =>
    simp only [exec, execHwByte]
    split
    · exact ⟨_, rfl, .byteWritten _ _ _ b (by assumption) rfl⟩
    · exact ⟨_, rfl, .nothing _⟩
  | hrField c f => exact ⟨_, rfl, .fieldRead c f⟩
  | memWr a b => exact ⟨_, rfl, .stored a b⟩
  | render n => exact ⟨_, rfl, .requested n⟩
  | reset => exact ⟨_, rfl, .restarted⟩

/-- Every next state of an operation is one of its effects. -/
theorem effect_of_exec {i : Instr} {s t : State} (h : exec i s = .next t) : Effect s i t := by
  obtain ⟨u, hu, he⟩ := exec_effect i s
  rw [h] at hu
  cases hu
  exact he

end Sys2Proof.Machine
end

