-- ==== Sys2Proof/Laws/Message.lean ====
section
/-! SUPPORT. Laws/Message.lean: the parts of a message read back as they were written. -/

namespace Sys2Proof

@[simp] theorem readByte_cons (b : Byte) (rest : List Byte) : readByte (b :: rest) = .ok (b, rest) := rfl

@[simp] theorem andThen_ok {α β : Type} (a : α) (rest : List Byte) (f : α → List Byte → Read β) :
    Read.andThen (.ok (a, rest)) f = f a rest := rfl

/-- Going on succeeds only if both readings did. -/
theorem andThen_eq_ok {α β : Type} {r : Read α} {f : α → List Byte → Read β} {x : β × List Byte}
    (h : Read.andThen r f = .ok x) : ∃ a rest, r = .ok (a, rest) ∧ f a rest = .ok x := by
  cases r with
  | error e => cases h
  | ok ar => exact ⟨ar.1, ar.2, rfl, h⟩

@[simp] theorem readChan_chanByte (c : Chan) (rest : List Byte) :
    readChan (chanByte c :: rest) = .ok (c, rest) := by
  cases c <;> rfl

@[simp] theorem readField_fieldByte (f : RegField) (rest : List Byte) :
    readField (fieldByte f :: rest) = .ok (f, rest) := by
  cases f <;> rfl

@[simp] theorem readSide_sideByte (side : Side) (rest : List Byte) :
    readSide (sideByte side :: rest) = .ok (side, rest) := by
  cases side <;> rfl

theorem sample_halves (x : Sample) : (x.extractLsb' 8 8 ++ x.extractLsb' 0 8 : BitVec 16) = x := by
  ext i hi
  simp only [BitVec.getElem_append, BitVec.getElem_extractLsb']
  by_cases h : i < 8 <;> simp [h]
  · rfl
  · rw [Nat.add_sub_cancel' (by omega)]; rfl

@[simp] theorem readSample_encodeSample (x : Sample) (rest : List Byte) :
    readSample (encodeSample x ++ rest) = .ok (x, rest) := by
  simp [readSample, encodeSample, sample_halves]

@[simp] theorem intOfCode_codeOfInt (x : Int) : intOfCode (codeOfInt x) = x := by
  cases x with
  | ofNat n => simp [intOfCode, codeOfInt]
  | negSucc n =>
    have h1 : (2 * n + 1) % 2 = 1 := by omega
    have h2 : (2 * n + 1) / 2 = n := by omega
    simp [intOfCode, codeOfInt, h1, h2]

/-- A number in 7-bit groups reads back, with enough fuel. -/
theorem readNat_encodeNatFuel (fuel n : Nat) (h : n ≤ fuel) (rest : List Byte) :
    readNat (encodeNatFuel fuel n ++ rest) = .ok (n, rest) := by
  induction fuel generalizing n with
  | zero =>
    obtain rfl : n = 0 := by omega
    rfl
  | succ fuel ih =>
    unfold encodeNatFuel
    split
    · rename_i hlt
      have : n % 256 = n := by omega
      simp [readNat, this, hlt]
    · rename_i hge
      have hdiv : n / 128 = (n / 128 - 1) + 1 := by omega
      have hb : (128 + n % 128) % 256 = 128 + n % 128 := by omega
      have hnb : ¬ (128 + n % 128 < 128) := by omega
      simp only [List.cons_append, readNat, BitVec.toNat_ofNat, Nat.reducePow, hb, hnb, if_false]
      rw [ih (n / 128) (by omega), hdiv]
      simp only [Except.ok.injEq, Prod.mk.injEq, and_true]
      omega

@[simp] theorem readNat_encodeNat (n : Nat) (rest : List Byte) :
    readNat (encodeNat n ++ rest) = .ok (n, rest) :=
  readNat_encodeNatFuel n n (Nat.le_refl n) rest

@[simp] theorem readArg_encodeArg (x : Option Int) (rest : List Byte) :
    readArg (encodeArg x ++ rest) = .ok (x, rest) := by
  cases x with
  | none => rfl
  | some x => simp [readArg, encodeArg, readInt]

/-- The groups do not depend on the fuel, once there is enough. -/
theorem encodeNatFuel_eq (fuel n : Nat) (h : n ≤ fuel) : encodeNatFuel fuel n = encodeNat n := by
  induction n using Nat.strongRecOn generalizing fuel with
  | _ n ih =>
    cases fuel with
    | zero =>
      obtain rfl : n = 0 := by omega
      rfl
    | succ fuel =>
      cases n with
      | zero => rfl
      | succ k =>
        unfold encodeNat
        unfold encodeNatFuel
        split
        · rfl
        · rw [ih ((k + 1) / 128) (by omega) fuel (by omega), ih ((k + 1) / 128) (by omega) k (by omega)]

end Sys2Proof
end

