-- ==== Sys2Proof/Laws/PerInstr.lean ====
section
/-! SUPPORT. Laws/PerInstr.lean: the family `LeadByte`, per constructor of `Instr`: a message is never empty, so a
waiting message always makes the step look at the ports. -/

namespace Sys2Proof.Laws.LeadByte

/-- The message of the operation begins with a lead byte. -/
def Statement (i : Instr) : Prop := ∃ lead rest, encode i = lead :: rest

theorem chIdleDisabled (c : Chan) (ctl : Byte) : Statement (.chIdleDisabled c ctl) := ⟨_, _, rfl⟩
theorem chIdleStopped (c : Chan) (ctl : Byte) : Statement (.chIdleStopped c ctl) := ⟨_, _, rfl⟩
theorem fetchLo4 (c : Chan) (ctl : Byte) : Statement (.fetchLo4 c ctl) := ⟨_, _, rfl⟩
theorem fetchHi4 (c : Chan) (ctl : Byte) : Statement (.fetchHi4 c ctl) := ⟨_, _, rfl⟩
theorem fetchB8 (c : Chan) (ctl : Byte) : Statement (.fetchB8 c ctl) := ⟨_, _, rfl⟩
theorem fetchW16 (c : Chan) (ctl : Byte) : Statement (.fetchW16 c ctl) := ⟨_, _, rfl⟩
theorem hwByte0 (c : Chan) (b : Byte) : Statement (.hwByte0 c b) := ⟨_, _, rfl⟩
theorem hwByte1 (c : Chan) (b : Byte) : Statement (.hwByte1 c b) := ⟨_, _, rfl⟩
theorem hwByte2 (c : Chan) (b : Byte) : Statement (.hwByte2 c b) := ⟨_, _, rfl⟩
theorem hwByte3 (c : Chan) (b : Byte) : Statement (.hwByte3 c b) := ⟨_, _, rfl⟩
theorem hwByte4 (c : Chan) (b : Byte) : Statement (.hwByte4 c b) := ⟨_, _, rfl⟩
theorem hwByte5 (c : Chan) (b : Byte) : Statement (.hwByte5 c b) := ⟨_, _, rfl⟩
theorem hwByte6 (c : Chan) (b : Byte) : Statement (.hwByte6 c b) := ⟨_, _, rfl⟩
theorem hwByte7 (c : Chan) (b : Byte) : Statement (.hwByte7 c b) := ⟨_, _, rfl⟩
theorem hwByte8 (c : Chan) (b : Byte) : Statement (.hwByte8 c b) := ⟨_, _, rfl⟩
theorem hwByte9 (c : Chan) (b : Byte) : Statement (.hwByte9 c b) := ⟨_, _, rfl⟩
theorem hwByteA (c : Chan) (b : Byte) : Statement (.hwByteA c b) := ⟨_, _, rfl⟩
theorem hwByteB (c : Chan) (b : Byte) : Statement (.hwByteB c b) := ⟨_, _, rfl⟩
theorem hwByteC (c : Chan) (b : Byte) : Statement (.hwByteC c b) := ⟨_, _, rfl⟩
theorem noneD (c : Chan) (b : Byte) : Statement (.noneD c b) := ⟨_, _, rfl⟩
theorem noneE (c : Chan) (b : Byte) : Statement (.noneE c b) := ⟨_, _, rfl⟩
theorem noneF (c : Chan) (b : Byte) : Statement (.noneF c b) := ⟨_, _, rfl⟩
theorem chStep (c : Chan) : Statement (.chStep c) := ⟨_, _, rfl⟩
theorem chBegin (c : Chan) : Statement (.chBegin c) := ⟨_, _, rfl⟩
theorem rcAdd (c : Chan) : Statement (.rcAdd c) := ⟨_, _, rfl⟩
theorem rcTick (c : Chan) : Statement (.rcTick c) := ⟨_, _, rfl⟩
theorem chEmit (c : Chan) : Statement (.chEmit c) := ⟨_, _, rfl⟩
theorem volScale (c : Chan) : Statement (.volScale c) := ⟨_, _, rfl⟩
theorem endLoop (c : Chan) : Statement (.endLoop c) := ⟨_, _, rfl⟩
theorem endStop (c : Chan) : Statement (.endStop c) := ⟨_, _, rfl⟩
theorem srcIn (k : Nat) (x : Sample) : Statement (.srcIn k x) := ⟨_, _, rfl⟩
theorem mixSum : Statement (.mixSum) := ⟨_, _, rfl⟩
theorem mixMatrix : Statement (.mixMatrix) := ⟨_, _, rfl⟩
theorem clipS16 (side : Side) : Statement (.clipS16 side) := ⟨_, _, rfl⟩
theorem frameOut : Statement (.frameOut) := ⟨_, _, rfl⟩
theorem cfgSet (volume separation : Option Int) : Statement (.cfgSet volume separation) := ⟨_, _, rfl⟩
theorem gainUpdate : Statement (.gainUpdate) := ⟨_, _, rfl⟩
theorem hwControl (c : Chan) (v : Nat) : Statement (.hwControl c v) := ⟨_, _, rfl⟩
theorem hwStart (c : Chan) (v : Nat) : Statement (.hwStart c v) := ⟨_, _, rfl⟩
theorem hwRate (c : Chan) (v : Nat) : Statement (.hwRate c v) := ⟨_, _, rfl⟩
theorem hwEnd (c : Chan) (v : Nat) : Statement (.hwEnd c v) := ⟨_, _, rfl⟩
theorem hwVolume (c : Chan) (v : Nat) : Statement (.hwVolume c v) := ⟨_, _, rfl⟩
theorem hwCurrent (c : Chan) (v : Nat) : Statement (.hwCurrent c v) := ⟨_, _, rfl⟩
theorem hwByte (ioAddr : Nat) (b : Byte) : Statement (.hwByte ioAddr b) := ⟨_, _, rfl⟩
theorem hrField (c : Chan) (f : RegField) : Statement (.hrField c f) := ⟨_, _, rfl⟩
theorem memWr (a : Nat) (b : Byte) : Statement (.memWr a b) := ⟨_, _, rfl⟩
theorem render (n : Nat) : Statement (.render n) := ⟨_, _, rfl⟩
theorem reset : Statement (.reset) := ⟨_, _, rfl⟩

end Sys2Proof.Laws.LeadByte
end

