-- ==== Sys2Proof/Tests/Slice0.lean ====
section
/-! SUPPORT. Tests/Slice0.lean: the model's own tests. Words are written out from spec/30_encoding.md R91 and R94 (and,
where the spec gives no encoding, from the message format of log 1); expected results of steps are the vectors of
spec/95_test_vectors.md, named in the comment above each. The last part gives, for every statement with hypotheses, a
state and operands that meet them all. -/

namespace Sys2Proof.Tests
open Sys2Proof Sys2Proof.Machine

/-! ## Well-formedness: each check refuses an ill-formed term and admits a legal one (R94) -/

theorem test_wf_idle_disabled : (Instr.chIdleDisabled .c0 0x80).wellFormed = false
    ∧ (Instr.chIdleDisabled .c0 0x7F).wellFormed = true := by decide
theorem test_wf_idle_stopped : (Instr.chIdleStopped .c0 0x83).wellFormed = false
    ∧ (Instr.chIdleStopped .c0 0xCB).wellFormed = true := by decide
theorem test_wf_fetch_lo4 : (Instr.fetchLo4 .c0 0x81).wellFormed = false
    ∧ (Instr.fetchLo4 .c0 0xC4).wellFormed = true := by decide
theorem test_wf_fetch_hi4 : (Instr.fetchHi4 .c0 0x80).wellFormed = false
    ∧ (Instr.fetchHi4 .c0 0xB5).wellFormed = true := by decide
theorem test_wf_fetch_b8 : (Instr.fetchB8 .c0 0x8A).wellFormed = false
    ∧ (Instr.fetchB8 .c0 0xB6).wellFormed = true := by decide
theorem test_wf_fetch_w16 : (Instr.fetchW16 .c0 0x03).wellFormed = false
    ∧ (Instr.fetchW16 .c0 0xF7).wellFormed = true := by decide

/-! ## Decoding -/

/-- The control bytes of L2.2, each in its class. -/
theorem test_decode_control_classes :
    [0x00, 0x7F, 0x80, 0x83, 0xC2, 0x88, 0xCB, 0xB6, 0xF7, 0xFF].map ctrlClass
      = [.idleDisabled, .idleDisabled, .play .lo4, .play .w16, .play .b8, .idleStopped, .idleStopped, .play .b8,
         .play .w16, .idleStopped] := by decide

/-- The CTRL8 rows, words written out bit by bit from R93: EN LOOP 0 0 STP 0 FMT. -/
theorem test_decode_ctrl8 :
    decode [0x40, 0b01111111, 0x00] = .ok (.chIdleDisabled .c0 0x7F, [])
    ∧ decode [0b10001000, 0x01] = .ok (.chIdleStopped .c1 0x88, [])
    ∧ decode [0b10000000, 0x02] = .ok (.fetchLo4 .c2 0x80, [])
    ∧ decode [0b11000001, 0x03] = .ok (.fetchHi4 .c3 0xC1, [])
    ∧ decode [0b10000010, 0x00] = .ok (.fetchB8 .c0 0x82, [])
    ∧ decode [0b11000011, 0x01] = .ok (.fetchW16 .c1 0xC3, []) := by decide

/-- The REGOFF4 rows: channel in bits 5:4, offset of R91 in bits 3:0, then the byte. -/
theorem test_decode_regoff4_low :
    decode [0x00, 0xC3] = .ok (.hwByte0 .c0 0xC3, [])
    ∧ decode [0x11, 0x10] = .ok (.hwByte1 .c1 0x10, [])
    ∧ decode [0x22, 0x20] = .ok (.hwByte2 .c2 0x20, [])
    ∧ decode [0x33, 0x30] = .ok (.hwByte3 .c3 0x30, [])
    ∧ decode [0x04, 0x40] = .ok (.hwByte4 .c0 0x40, [])
    ∧ decode [0x15, 0x80] = .ok (.hwByte5 .c1 0x80, [])
    ∧ decode [0x26, 0x60] = .ok (.hwByte6 .c2 0x60, [])
    ∧ decode [0x37, 0x70] = .ok (.hwByte7 .c3 0x70, []) := by decide
theorem test_decode_regoff4_high :
    decode [0x08, 0x08] = .ok (.hwByte8 .c0 0x08, [])
    ∧ decode [0x19, 0xFF] = .ok (.hwByte9 .c1 0xFF, [])
    ∧ decode [0x2A, 0xFF] = .ok (.hwByteA .c2 0xFF, [])
    ∧ decode [0x3B, 0x0B] = .ok (.hwByteB .c3 0x0B, [])
    ∧ decode [0x0C, 0x0C] = .ok (.hwByteC .c0 0x0C, [])
    ∧ decode [0x1D, 0x01] = .ok (.noneD .c1 0x01, [])
    ∧ decode [0x2E, 0x02] = .ok (.noneE .c2 0x02, [])
    ∧ decode [0x3F, 0x03] = .ok (.noneF .c3 0x03, []) := by decide

/-- The PORT rows of the channels (log 1). -/
theorem test_decode_port_channels :
    decode [0x41, 0x00] = .ok (.chStep .c0, []) ∧ decode [0x42, 0x01] = .ok (.chBegin .c1, [])
    ∧ decode [0x43, 0x02] = .ok (.rcAdd .c2, []) ∧ decode [0x44, 0x03] = .ok (.rcTick .c3, [])
    ∧ decode [0x45, 0x00] = .ok (.chEmit .c0, []) ∧ decode [0x46, 0x01] = .ok (.volScale .c1, [])
    ∧ decode [0x47, 0x02] = .ok (.endLoop .c2, []) ∧ decode [0x48, 0x03] = .ok (.endStop .c3, []) := by
  and_intros <;> rfl

/-- The PORT rows of the chip sources, the mixer and the configuration (log 1). -/
theorem test_decode_port_mixer :
    decode [0x49, 0x01, 0x18, 0xFC] = .ok (.srcIn 1 (BitVec.ofInt 16 (-1000)), [])
    ∧ decode [0x4A] = .ok (.mixSum, []) ∧ decode [0x4B] = .ok (.mixMatrix, [])
    ∧ decode [0x4C, 0x01] = .ok (.clipS16 .right, []) ∧ decode [0x4D] = .ok (.frameOut, [])
    ∧ decode [0x4E, 0x01, 0x09, 0x01, 0xD7, 0x04] = .ok (.cfgSet (some (-5)) (some (-300)), [])
    ∧ decode [0x4F] = .ok (.gainUpdate, []) := by
  decide +kernel

/-- The PORT rows of the host, the sink and the outside (log 1); 300 is the groups 0x2C, 0x02. -/
theorem test_decode_port_host :
    decode [0x50, 0x00, 0xC3, 0x01] = .ok (.hwControl .c0 0xC3, [])
    ∧ decode [0x51, 0x02, 0x80, 0x40] = .ok (.hwStart .c2 0x2000, [])
    ∧ decode [0x52, 0x00, 0x80, 0x80, 0x02] = .ok (.hwRate .c0 0x8000, [])
    ∧ decode [0x53, 0x00, 0x84, 0x02] = .ok (.hwEnd .c0 0x104, [])
    ∧ decode [0x54, 0x02, 0x80, 0x01] = .ok (.hwVolume .c2 128, [])
    ∧ decode [0x55, 0x03, 0x80, 0x02] = .ok (.hwCurrent .c3 0x100, [])
    ∧ decode [0x56, 0x15, 0x80] = .ok (.hwByte 0x15 0x80, [])
    ∧ decode [0x57, 0x00, 0x05] = .ok (.hrField .c0 .currentAddress, [])
    ∧ decode [0x58, 0xAC, 0x02, 0x7F] = .ok (.memWr 300 0x7F, [])
    ∧ decode [0x59, 0x06] = .ok (.render 6, []) ∧ decode [0x5A] = .ok (.reset, []) := by
  and_intros <;> rfl

/-- Bytes that are no message are rejected by name; bytes after a message are left. -/
theorem test_decode_rejects :
    decode [] = .error .truncated ∧ decode [0x5B] = .error (.unknownLead 0x5B)
    ∧ decode [0x82, 0x04] = .error (.noSuchChannel 4) ∧ decode [0x57, 0x00, 0x06] = .error (.noSuchField 6)
    ∧ decode [0x4C, 0x02] = .error (.noSuchSide 2) ∧ decode [0x4E, 0x02] = .error (.noSuchOption 2)
    ∧ decode [0x59, 0x86, 0x00] = .error .longNumber ∧ decode [0x40, 0x80, 0x00] = .error (.controlClass 0x80)
    ∧ decode [0x58, 0xAC] = .error .truncated ∧ decode [0x4D, 0x41, 0x00] = .ok (.frameOut, [0x41, 0x00]) := by
  and_intros <;> rfl

/-- Every REGOFF4 word of the table, and every CTRL8 word but the one both formats have (log 24). -/
theorem test_table_words :
    (List.range 16).map (decodeTableWord 8)
      = [some (.hwByte0 .c0 0), some (.hwByte1 .c0 0), some (.hwByte2 .c0 0), some (.hwByte3 .c0 0),
         some (.hwByte4 .c0 0), some (.hwByte5 .c0 0), some (.hwByte6 .c0 0), some (.hwByte7 .c0 0),
         some (.hwByte8 .c0 0), some (.hwByte9 .c0 0), some (.hwByteA .c0 0), some (.hwByteB .c0 0),
         some (.hwByteC .c0 0), some (.noneD .c0 0), some (.noneE .c0 0), some (.noneF .c0 0)]
    ∧ [0x80, 0x81, 0x82, 0x83, 0x88].map (decodeTableWord 8)
      = [some (.fetchLo4 .c0 0x80), some (.fetchHi4 .c0 0x81), some (.fetchB8 .c0 0x82), some (.fetchW16 .c0 0x83),
         some (.chIdleStopped .c0 0x88)] := by decide

/-! ## A small state -/

/-- The next state of an operation. -/
def after (i : Instr) (s : State) : State :=
  match exec i s with
  | .next t => t
  | .fault _ => s
  | .refused _ => s

/-- Config B of spec/95_test_vectors.md: RATIO 512, ACC_ONE 0x1000000. -/
def configB : Params := { Params.example with nativeClockHz := 24576000 }

/-- Config B, channel 0 as given, a pass of five frames running. -/
def onChannel (ch : Channel) : State :=
  { (State.initial configB).setChan .c0 ch with framesLeft := 5 }

/-- A channel between output samples. -/
def readyChannel (r : RegBlock) : Channel := ⟨r, 0, 0, .ready, []⟩

/-- A channel that owes exactly one fetch. -/
def tickingChannel (r : RegBlock) : Channel := ⟨r, 0x1000000, 0, .ticking, []⟩

/-- One fetch, at `cur`, of a channel with the given control, end address and volume, over a memory array. -/
def fetchAt (ctl : Byte) (cur : Addr) (endAddr : BitVec 16) (vol : Byte) (m : Memory) : State :=
  { onChannel (tickingChannel ⟨ctl, 0x120000, 0x8000, endAddr, vol, cur⟩) with mem := m }

/-! ## One step each -/

/-- L2.2: `CH.IDLE` from `ACCN = 0x123456`, `LAST = 777`, `currentAddress = 0x00ABCD`. -/
theorem test_idle_disabled :
    (after (.chIdleDisabled .c0 0x02) (onChannel ⟨⟨0x02, 0, 0, 0, 0, 0xABCD⟩, 0x123456, 777, .ready, []⟩)).chan .c0
      = ⟨⟨0x02, 0, 0, 0, 0, 0xABCD⟩, 0, 0, .ready, [0]⟩ := by decide
theorem test_idle_stopped :
    (after (.chIdleStopped .c0 0x8A) (onChannel ⟨⟨0x8A, 0, 0, 0, 0, 0xABCD⟩, 0x123456, 777, .ready, []⟩)).chan .c0
      = ⟨⟨0x8A, 0, 0, 0, 0, 0xABCD⟩, 0, 0, .ready, [0]⟩ := by decide

/-- L2.3: byte `A7` at volume 255 in format 0; byte `0F` at volume 100. -/
theorem test_fetch_lo4 :
    ((after (.fetchLo4 .c0 0x80) (fetchAt 0x80 1 0 255 [(1, 0xA7)])).chan .c0).last.toInt = 28672
    ∧ ((after (.fetchLo4 .c0 0x80) (fetchAt 0x80 1 0 100 [(1, 0x0F)])).chan .c0).last.toInt = -1606 := by decide

/-- L2.3: bytes `A7` and `7F` at volume 255 in format 1. -/
theorem test_fetch_hi4 :
    ((after (.fetchHi4 .c0 0x81) (fetchAt 0x81 1 0 255 [(1, 0xA7)])).chan .c0).last.toInt = -24576
    ∧ ((after (.fetchHi4 .c0 0x81) (fetchAt 0x81 1 0 255 [(1, 0x7F)])).chan .c0).last.toInt = 28672 := by decide

/-- L2.3: the byte at the top of memory in format 2; its pointer wraps. -/
theorem test_fetch_b8_top :
    ((after (.fetchB8 .c0 0x82) (fetchAt 0x82 0xFFFFFF 1 255 [(0xFFFFFF, 0x40)])).chan .c0).last.toInt = 16384
    ∧ ((after (.fetchB8 .c0 0x82) (fetchAt 0x82 0xFFFFFF 1 255 [(0xFFFFFF, 0x40)])).chan .c0).regs.currentAddress = 0 := by
  decide

/-- L2.3: word `C000` at volume 128; and the word that would straddle the top of memory, which is skipped. -/
theorem test_fetch_w16 :
    ((after (.fetchW16 .c0 0x83) (fetchAt 0x83 2 0 128 [(2, 0x00), (3, 0xC0)])).chan .c0).last.toInt = -8224
    ∧ ((after (.fetchW16 .c0 0x83) (fetchAt 0x83 0xFFFFFF 0 255 [(0xFFFFFF, 0x55)])).chan .c0).last = 0
    ∧ ((after (.fetchW16 .c0 0x83) (fetchAt 0x83 0xFFFFFF 0 255 [(0xFFFFFF, 0x55)])).chan .c0).regs.currentAddress = 1 := by
  decide

/-- L2.1: Config B, rate 0xC000 gives one fetch, then two, and the accumulator 0x800000, then 0. -/
theorem test_ch_step :
    ((after (.chStep .c0) (onChannel (readyChannel ⟨0x82, 0, 0xC000, 0x500, 255, 0x400⟩))).chan .c0).accn = 0x800000
    ∧ ((after (.chStep .c0) (onChannel ⟨⟨0x82, 0, 0xC000, 0x500, 255, 0x401⟩, 0x800000, 0, .ready, []⟩)).chan .c0).regs.currentAddress
        = 0x403 := by decide

/-- L2.1, corner case: a natural stop ends the ticks of its output sample, which emits 0. -/
theorem test_ch_step_stops :
    (after (.chStep .c0) (onChannel (readyChannel ⟨0x82, 0, 0x10000, 0xFF, 255, 0xFE⟩))).chan .c0
      = ⟨⟨0x8A, 0, 0x10000, 0xFF, 255, 0xFF⟩, 0, 0, .ready, [0]⟩ := by decide

/-- L2.5, step 1. -/
theorem test_ch_begin :
    (after (.chBegin .c0) (onChannel (readyChannel ⟨0x82, 0, 0x10000, 0x500, 255, 0x400⟩))).chan .c0
      = ⟨⟨0x82, 0, 0x10000, 0x500, 255, 0x400⟩, 0x2000000, 0, .ticking, []⟩ := by decide

/-- L2.1: Config B, rate 0x8001. -/
theorem test_rc_add :
    ((after (.rcAdd .c0) (onChannel (readyChannel ⟨0x82, 0, 0x8001, 0x500, 255, 0x400⟩))).chan .c0).accn = 0x1000200 := by
  decide

/-- L2.5, steps 3 and 4: the tick goes on after the host disabled the channel, in the live format 3. -/
theorem test_rc_tick :
    (after (.rcTick .c0) (fetchAt 0x03 0x401 0x500 255 [(0x400, 0x10), (0x401, 0x20), (0x402, 0x30), (0x403, 0x40)])).chan .c0
      = ⟨⟨0x03, 0x120000, 0x8000, 0x500, 255, 0x403⟩, 0, 12320, .ticking, []⟩ := by decide

/-- L2.5, step 5. -/
theorem test_ch_emit :
    (after (.chEmit .c0) (onChannel ⟨⟨0x03, 0, 0, 0, 0, 0⟩, 0, 12320, .ticking, []⟩)).chan .c0
      = ⟨⟨0x03, 0, 0, 0, 0, 0⟩, 0, 12320, .ready, [12320]⟩ := by decide

/-- L2.3: `7F00` and `FF00` at volume 128. -/
theorem test_vol_scale :
    ((after (.volScale .c0) (fetchAt 0x82 1 0 128 [(1, 0x7F)])).chan .c0).last.toInt = 16319
    ∧ ((after (.volScale .c0) (fetchAt 0x82 1 0 128 [(1, 0xFF)])).chan .c0).last.toInt = -128 := by decide

/-- L2.3, column "alt": `FF00` at volume 1 under `unsigned_wrap`. -/
theorem test_vol_scale_unsigned : (volScale .unsignedWrap 0xFF00 1).toInt = 256
    ∧ (volScale .unsignedWrap 0xFF00 128).toInt = -32768 := by decide

/-- L2.4, row 3: the loop loads all 24 bits of `startAddress`. -/
theorem test_end_loop :
    ((after (.endLoop .c0) (fetchAt 0xC2 0x03FFFF 0 255 [])).chan .c0).regs.currentAddress = 0x120000
    ∧ ((after (.endLoop .c0) (fetchAt 0xC2 0x03FFFF 0 255 [])).chan .c0).regs.control = 0xC2 := by decide

/-- L2.4, row 1. -/
theorem test_end_stop :
    (after (.endStop .c0) (fetchAt 0x82 0x103 0x104 255 [(0x103, 0xFF)])).chan .c0
      = ⟨⟨0x8A, 0x120000, 0x8000, 0x104, 255, 0x104⟩, 0, 0, .ticking, []⟩ := by decide

/-- A frame ready to be mixed: the sources of L2.7, `MIX.SUM`, and two chip sources with two samples left. -/
def mixState : State :=
  { State.initial { configB with chipBus := [.right] } with
    chans := ⟨⟨.zero, 0, 0, .ready, [28672]⟩, ⟨.zero, 0, 0, .ready, [28672]⟩, ⟨.zero, 0, 0, .ready, [BitVec.ofInt 16 (-5)]⟩,
      ⟨.zero, 0, 0, .ready, [7]⟩⟩
    chipQueues := [[BitVec.ofInt 16 (-32768)]]
    framesLeft := 2
    gainPrimary := 100 }

/-- R200, example: a sample joins the queue of its source. -/
theorem test_src_in :
    (after (.srcIn 0 (BitVec.ofInt 16 (-1000))) mixState).chipQueues
      = [[BitVec.ofInt 16 (-32768), BitVec.ofInt 16 (-1000)]] := by decide

/-- L2.7, last line. -/
theorem test_mix_sum : (after .mixSum mixState).busSum = ⟨57344, -32766⟩ := by decide

/-- L2.7, rows 17 and 11. -/
theorem test_mix_matrix :
    (after .mixMatrix { State.reset with busSum := ⟨-20001, 30001⟩, gainPrimary := 37, gainCross := 12 }).mixOut = ⟨-3800, 8700⟩
    ∧ (after .mixMatrix { State.reset with busSum := ⟨-3, 5⟩, gainPrimary := 37, gainCross := 37 }).mixOut = ⟨0, 0⟩ := by decide

/-- R240, corner cases. -/
theorem test_clip :
    (after (.clipS16 .left) { State.reset with mixOut := ⟨32768, 1⟩ }).clipOut = ⟨32767, 0⟩
    ∧ (after (.clipS16 .right) { State.reset with mixOut := ⟨1, -32769⟩ }).clipOut = ⟨0, BitVec.ofInt 16 (-32768)⟩ := by decide

/-- Full left and right volume: the sums of L2.7 clipped, left first. -/
theorem test_frame_out :
    (after .frameOut mixState).frames = [⟨32767, BitVec.ofInt 16 (-32766)⟩]
    ∧ (after .frameOut mixState).framesLeft = 1 ∧ (after .frameOut mixState).chipQueues = [[]] := by decide

/-- L2.6, clamping and the sentinel sequence. -/
theorem test_cfg_set :
    let s := after (.cfgSet (some (-5)) (some (-300))) State.reset
    (s.masterVolume, s.stereoSeparation) = (0, -100) := by decide
theorem test_cfg_set_unchanged :
    let s := after (.cfgSet none (some 40)) { State.reset with masterVolume := 80, stereoSeparation := -20 }
    (s.masterVolume, s.stereoSeparation, s.gainPrimary, s.gainCross) = (80, 40, 56, 24) := by decide

/-- L2.6: (100, -1) and (75, 0). -/
theorem test_gain_update :
    let s := after .gainUpdate { State.reset with masterVolume := 100, stereoSeparation := -1 }
    let t := after .gainUpdate { State.reset with masterVolume := 75, stereoSeparation := 0 }
    (s.gainPrimary, s.gainCross, t.gainPrimary, t.gainCross) = (49, 51, 37, 37) := by decide

/-- L2.8: clearing the stopped flag touches nothing else; a value wider than the field is reduced (R250). -/
theorem test_hw_control :
    (after (.hwControl .c0 0x82) (onChannel ⟨⟨0x8A, 0, 0, 0, 0, 0x104⟩, 5, 6, .ready, []⟩)).chan .c0
      = ⟨⟨0x82, 0, 0, 0, 0, 0x104⟩, 5, 6, .ready, []⟩ := by decide
theorem test_hw_start :
    ((after (.hwStart .c2 0x1002000) State.reset).chan .c2).regs = ⟨0, 0x2000, 0, 0, 0, 0⟩ := by decide
theorem test_hw_rate : ((after (.hwRate .c0 0x8000) State.reset).chan .c0).regs = ⟨0, 0, 0x8000, 0, 0, 0⟩ := by decide
theorem test_hw_end : ((after (.hwEnd .c0 0x10104) State.reset).chan .c0).regs = ⟨0, 0, 0, 0x104, 0, 0⟩ := by decide
theorem test_hw_volume : ((after (.hwVolume .c2 128) State.reset).chan .c2).regs = ⟨0, 0, 0, 0, 128, 0⟩ := by decide
theorem test_hw_current : ((after (.hwCurrent .c0 0x100) State.reset).chan .c0).regs = ⟨0, 0, 0, 0, 0, 0x100⟩ := by decide

/-- A block whose 13 bytes are those of P1 before `RENDER`: 82 00 01 00 00 80 00 04 01 FF 00 01 00. -/
def p1Block : RegBlock := ⟨0x82, 0x000100, 0x008000, 0x0104, 255, 0x000100⟩

theorem test_p1_bytes :
    regBlockBytes p1Block = [0x82, 0x00, 0x01, 0x00, 0x00, 0x80, 0x00, 0x04, 0x01, 0xFF, 0x00, 0x01, 0x00] := by decide

/-- The block after a byte write to the block of P1. -/
def byteWrite (i : Instr) : RegBlock := ((after i (onChannel (readyChannel p1Block))).chan .c0).regs

/-- R262: each offset replaces its own byte of its own field (R91). -/
theorem test_hw_bytes_low :
    byteWrite (.hwByte0 .c0 0xC3) = { p1Block with control := 0xC3 }
    ∧ byteWrite (.hwByte1 .c0 0xAB) = { p1Block with startAddress := 0x0001AB }
    ∧ byteWrite (.hwByte2 .c0 0xAB) = { p1Block with startAddress := 0x00AB00 }
    ∧ byteWrite (.hwByte3 .c0 0xAB) = { p1Block with startAddress := 0xAB0100 }
    ∧ byteWrite (.hwByte4 .c0 0xAB) = { p1Block with rateIncrement := 0x0080AB }
    ∧ byteWrite (.hwByte5 .c0 0xAB) = { p1Block with rateIncrement := 0x00AB00 }
    ∧ byteWrite (.hwByte6 .c0 0xAB) = { p1Block with rateIncrement := 0xAB8000 } := by decide
theorem test_hw_bytes_high :
    byteWrite (.hwByte7 .c0 0xAB) = { p1Block with endAddress := 0x01AB }
    ∧ byteWrite (.hwByte8 .c0 0xAB) = { p1Block with endAddress := 0xAB04 }
    ∧ byteWrite (.hwByte9 .c0 0xAB) = { p1Block with volume := 0xAB }
    ∧ byteWrite (.hwByteA .c0 0xFF) = { p1Block with currentAddress := 0x0001FF }
    ∧ byteWrite (.hwByteB .c0 0xAB) = { p1Block with currentAddress := 0x00AB00 }
    ∧ byteWrite (.hwByteC .c0 0xAB) = { p1Block with currentAddress := 0xAB0100 }
    ∧ byteWrite (.noneD .c0 0xAB) = p1Block ∧ byteWrite (.noneE .c0 0xAB) = p1Block
    ∧ byteWrite (.noneF .c0 0xAB) = p1Block := by decide

/-- R262, example, at I/O address `REG_BASE[1] + 5` = 0x15; and an address between two blocks. -/
theorem test_hw_byte :
    ((after (.hwByte 0x15 0x80) State.reset).chan .c1).regs.rateIncrement = 0x8000
    ∧ after (.hwByte 0x1D 0x80) State.reset = State.reset := by decide

/-- L2.8, last row. -/
theorem test_hr_field :
    (after (.hrField .c0 .endAddress) (onChannel (readyChannel { p1Block with endAddress := 0x1234 }))).reads
      = [⟨.c0, .endAddress, 0x1234⟩] := by decide

/-- R264; the second write leaves the memory in canonical form. -/
theorem test_mem_wr :
    (after (.memWr 0x100 0x10) State.reset).mem = [(0x100, 0x10)]
    ∧ (after (.memWr 0x100 0x00) { State.reset with mem := [(0x100, 0x10)] }).mem = [] := by decide

/-- R270: a pass opens; a second request waits. -/
theorem test_render :
    (after (.render 6) State.reset).framesLeft = 6
    ∧ (after (.render 3) { State.reset with framesLeft := 6 }).requests = [3] := by decide

/-- R310: reset keeps the memory array and nothing else of the run. -/
theorem test_reset :
    after .reset { fetchAt 0x82 0x103 0x104 255 [(0x103, 0xFF)] with frames := [⟨1, 2⟩] }
      = { State.initial configB with mem := [(0x103, 0xFF)] } := by decide

/-- The canonical form of memory refuses an unordered list, a repeated address and a listed fill byte. -/
theorem test_memory_wf :
    Memory.wf [(2, 1), (1, 1)] = false ∧ Memory.wf [(1, 1), (1, 2)] = false ∧ Memory.wf [(1, 0)] = false
    ∧ Memory.wf [(1, 1), (2, 1)] = true := by decide

/-! ## Witnesses: for each statement with hypotheses, one input that meets them all -/

/-- Channel 0 playing 16-bit data in a loop, between output samples. -/
def playing : State := { onChannel (readyChannel ⟨0xC3, 0x2000, 0xC000, 0x2008, 128, 0x2000⟩) with mem := [(0x2001, 0x40)] }

/-- A channel that stopped at its end. -/
def stoppedState : State := onChannel (readyChannel ⟨0x8A, 0x100, 0x8000, 0x104, 255, 0x104⟩)

theorem witness_DecodeEncodeRoundTrip : (Instr.fetchW16 .c2 0xF7).wellFormed = true := by decide
theorem witness_DecodedBytesAreTheMessage : decode [0x59, 0xAC, 0x02, 0x41] = .ok (.render 300, [0x41]) := by decide

/-- One control byte in each class, with the ignored bits set. -/
theorem witness_ControlByteClasses :
    (0x7F : Byte) &&& 0x80 = 0x00 ∧ (0xFF : Byte) &&& 0x88 = 0x88 ∧ (0xF4 : Byte) &&& 0x8B = 0x80
    ∧ (0xF5 : Byte) &&& 0x8B = 0x81 ∧ (0xF6 : Byte) &&& 0x8B = 0x82 ∧ (0xF7 : Byte) &&& 0x8B = 0x83 := by decide

theorem witness_StepRunsTheWaitingMessage :
    decode ({ State.reset with inbox := [0x59, 0x06, 0x41] } : State).inbox = .ok (.render 6, [0x41]) := by decide

/-- The three clauses: an own operation; a burst to come; nothing. -/
theorem witness_StepWithoutMessage :
    playing.inbox = [] ∧ playing.nextOwn = some (.chBegin .c0)
    ∧ ({ State.reset with later := [[0x4D]] } : State).nextOwn = none ∧ State.reset.nextOwn = none
    ∧ State.reset.inbox = [] ∧ State.reset.later = [] := by decide

theorem witness_BlockWaitsForRender :
    State.reset.framesLeft = 0 ∧ State.reset.inbox = [] ∧ State.reset.later = []
    ∧ (State.initial { configB with renderEnabled := false }).params.renderEnabled = false := by decide

theorem witness_InitialStatesMeetInvariant : ParamsWf configB := by decide

theorem witness_StepKeepsInvariant : StateInv playing ∧ step playing = .next (after (.chBegin .c0) playing.countOwn) :=
  ⟨by decide, rfl⟩

theorem witness_ParametersAreConstant : exec (.chStep .c0) playing = .next (after (.chStep .c0) playing) := rfl

theorem witness_ClockRatioInLowestTerms : 0 < configB.nativeClockHz ∧ 0 < configB.outputSampleRate := by decide

theorem witness_RateAddition :
    OwesSample playing .c0 ∧ (playing.chan .c0).regs.control.getLsbD 7 = true
    ∧ (playing.chan .c0).regs.control.getLsbD 3 = false := by decide

/-- A channel about to emit, at a rate that adds 512 to an accumulator of 0x10: no tick in the next output sample. -/
def emitState : State := onChannel ⟨{ p1Block with rateIncrement := 1 }, 0x10, 777, .ticking, []⟩

theorem witness_EmitHoldsTheSample :
    OwesEmit emitState .c0 ∧ exec (.chEmit .c0) emitState = .next (after (.chEmit .c0) emitState)
    ∧ ((after (.chEmit .c0) emitState).chan .c0).out.length < (after (.chEmit .c0) emitState).framesLeft
    ∧ (emitState.chan .c0).regs.control.getLsbD 7 = true ∧ (emitState.chan .c0).regs.control.getLsbD 3 = false
    ∧ (emitState.chan .c0).accn + (emitState.chan .c0).regs.rateIncrement.toNat * ratioNum emitState.params
        < accOne emitState.params := ⟨by decide, rfl, by decide, by decide, by decide, by decide⟩

/-- No pass runs and nothing ticks at reset; there is no chip source either, and no frame is owed. -/
theorem witness_StepsNotEnabledAreNotTaken :
    ¬ OwesSample State.reset .c0 ∧ ¬ OwesTick State.reset .c0 ∧ ¬ OwesEmit State.reset .c0
    ∧ (∀ q, ¬ OwesDraw State.reset 0 q) ∧ ¬ OwesFrame State.reset :=
  ⟨by decide, by decide, by decide, fun _ h => (nomatch h.2.1), by decide⟩

/-- The other clauses in states whose step is enabled: `RC.ADD` and the two `CH.IDLE` rows on a channel of another class, a
fetch row of another format and of another loop bit, `END.*` away from the end and at an end of the other kind, and
`FRAME.OUT` with one source's sample missing. -/
theorem witness_StepsNotEnabledAreNotTaken_parts :
    (OwesSample stoppedState .c0 ∧ (stoppedState.chan .c0).regs.control.getLsbD 3 = true
      ∧ (stoppedState.chan .c0).regs.control &&& 0x80 ≠ 0x00)
    ∧ (OwesSample playing .c0 ∧ (playing.chan .c0).regs.control &&& 0x88 ≠ 0x88)
    ∧ (OwesTick (fetchAt 0x82 0x103 0x105 255 []) .c0
      ∧ formatOf ((fetchAt 0x82 0x103 0x105 255 []).chan .c0).regs.control ≠ .w16
      ∧ ((fetchAt 0x82 0x103 0x105 255 []).chan .c0).regs.control.getLsbD 6 ≠ (0xC2 : Byte).getLsbD 6
      ∧ (0x103 + stepBytes .b8) % 16777216 % 65536 ≠ ((fetchAt 0x82 0x103 0x105 255 []).chan .c0).regs.endAddress.toNat)
    ∧ (OwesTick (fetchAt 0x82 0x103 0x104 255 []) .c0
      ∧ ((fetchAt 0x82 0x103 0x104 255 []).chan .c0).regs.control.getLsbD 6 = false)
    ∧ (OwesTick (fetchAt 0xC3 0x2006 0x2008 255 []) .c0
      ∧ ((fetchAt 0xC3 0x2006 0x2008 255 []).chan .c0).regs.control.getLsbD 6 = true)
    ∧ (0 < mixState.framesLeft ∧ ¬ OwesFrame { mixState with chipQueues := [[]] }) := by decide

theorem witness_AccumulatorNeverDrifts :
    ParamsWf playing.params ∧ playing.params.renderEnabled = true ∧ (playing.chan .c0).phase = .ready
    ∧ (playing.chan .c0).accn < accOne playing.params ∧ (playing.chan .c0).regs.control.getLsbD 7 = true
    ∧ (playing.chan .c0).regs.control.getLsbD 3 = false ∧ (playing.chan .c0).regs.control.getLsbD 6 = true
    ∧ (playing.chan .c0).out.length + 5 ≤ playing.framesLeft := by decide

/-- Row 5 of L2.4. -/
def oddEnd : State := onChannel (readyChannel ⟨0x83, 0, 0x8000, 0x0015, 255, 0x000010⟩)

theorem witness_UnmatchedEndPlaysOn :
    ParamsWf oddEnd.params ∧ oddEnd.params.renderEnabled = true ∧ (oddEnd.chan .c0).phase = .ready
    ∧ (oddEnd.chan .c0).accn < accOne oddEnd.params ∧ (oddEnd.chan .c0).regs.control &&& 0x8B = 0x83
    ∧ (oddEnd.chan .c0).regs.currentAddress.toNat % 2 ≠ (oddEnd.chan .c0).regs.endAddress.toNat % 2
    ∧ (oddEnd.chan .c0).out.length + 5 ≤ oddEnd.framesLeft := by decide

/-- A channel that holds 777 at rate 0 (L1.4). -/
def heldState : State := onChannel ⟨⟨0x82, 0, 0, 0x104, 255, 0x100⟩, 0xFFFFFF, 777, .ready, []⟩

theorem witness_RateZeroHoldsTheSample :
    OwesSample heldState .c0 ∧ (heldState.chan .c0).accn < accOne heldState.params
    ∧ (heldState.chan .c0).regs.control.getLsbD 7 = true ∧ (heldState.chan .c0).regs.control.getLsbD 3 = false
    ∧ (heldState.chan .c0).regs.rateIncrement = 0 := by decide

/-- Both clauses: a disabled channel and a stopped one. -/
theorem witness_StoppedSampleIsSilent :
    (OwesSample (onChannel (readyChannel ⟨0x7F, 0, 0, 0, 0, 0xABCD⟩)) .c0
      ∧ ((onChannel (readyChannel ⟨0x7F, 0, 0, 0, 0, 0xABCD⟩)).chan .c0).regs.control &&& 0x80 = 0x00)
    ∧ (OwesSample (onChannel (readyChannel ⟨0xFF, 0, 0, 0, 0, 0xABCD⟩)) .c0
      ∧ ((onChannel (readyChannel ⟨0xFF, 0, 0, 0, 0, 0xABCD⟩)).chan .c0).regs.control &&& 0x88 = 0x88) := by decide

/-- A PLAYING channel and a STOPPED one. -/
theorem witness_ChStepIsItsAtomicSteps :
    (ParamsWf playing.params ∧ OwesSample playing .c0 ∧ (playing.chan .c0).regs.control.getLsbD 7 = true
      ∧ (playing.chan .c0).regs.control.getLsbD 3 = false)
    ∧ (ParamsWf stoppedState.params ∧ OwesSample stoppedState .c0
      ∧ (stoppedState.chan .c0).regs.control.getLsbD 3 = true) := by decide

/-- The four formats, each at the last address that is in bounds. -/
theorem witness_FetchDecodesAndAdvances :
    ∀ e ∈ [(Format.lo4, (0x80 : Byte), (0xFFFFFF : Addr)), (.hi4, 0xC1, 0xFFFFFF), (.b8, 0x82, 0xFFFFFF), (.w16, 0xC3, 0xFFFFFE)],
      let s := fetchAt e.2.1 e.2.2 5 255 []
      OwesTick s .c0 ∧ formatOf (s.chan .c0).regs.control = e.1
      ∧ (s.chan .c0).regs.control.getLsbD 6 = e.2.1.getLsbD 6
      ∧ (s.chan .c0).regs.currentAddress.toNat + stepBytes e.1 ≤ s.params.memSize
      ∧ ((s.chan .c0).regs.currentAddress.toNat + stepBytes e.1) % 16777216 % 65536 ≠ (s.chan .c0).regs.endAddress.toNat := by
  decide

/-- A fetch over an array of 0x3000 bytes. -/
def smallArray (ctl : Byte) (cur : Addr) (endAddr : BitVec 16) : State :=
  { fetchAt ctl cur endAddr 255 [] with params := { configB with memSize := 0x3000 } }

/-- L2.3: the first address out of bounds in formats 0 to 2, and the word whose second byte is out of bounds. -/
theorem witness_FetchOutOfBoundsIsSilent :
    ∀ e ∈ [(Format.lo4, (0x80 : Byte), (0x3000 : Addr)), (.hi4, 0x81, 0x3000), (.b8, 0x82, 0x3000), (.w16, 0x83, 0x2FFF)],
      let s := smallArray e.2.1 e.2.2 5
      OwesTick s .c0 ∧ formatOf (s.chan .c0).regs.control = e.1
      ∧ (s.chan .c0).regs.control.getLsbD 6 = e.2.1.getLsbD 6
      ∧ s.params.memSize < (s.chan .c0).regs.currentAddress.toNat + stepBytes e.1
      ∧ ((s.chan .c0).regs.currentAddress.toNat + stepBytes e.1) % 16777216 % 65536 ≠ (s.chan .c0).regs.endAddress.toNat := by
  decide

/-- L2.4, rows 2 and 8: a loop in bounds and one out of bounds. -/
theorem witness_FetchLoopsAtEnd :
    ∀ s ∈ [fetchAt 0xC3 0x2006 0x2008 255 [], smallArray 0xC2 0x4FFF 0x5000],
      OwesTick s .c0
      ∧ ((s.chan .c0).regs.currentAddress.toNat + stepBytes (formatOf (s.chan .c0).regs.control)) % 16777216 % 65536
          = (s.chan .c0).regs.endAddress.toNat
      ∧ (s.chan .c0).regs.control.getLsbD 6 = true ∧ (0xC3 : Byte).getLsbD 6 = true := by decide

/-- L2.4, rows 1 and 4. -/
theorem witness_FetchStopsAtEnd :
    ∀ s ∈ [fetchAt 0x82 0x103 0x104 255 [], fetchAt 0x82 0x05FFFE 0xFFFF 255 []],
      OwesTick s .c0 ∧ 0 < accOne s.params
      ∧ ((s.chan .c0).regs.currentAddress.toNat + stepBytes (formatOf (s.chan .c0).regs.control)) % 16777216 % 65536
          = (s.chan .c0).regs.endAddress.toNat
      ∧ (s.chan .c0).regs.control.getLsbD 6 = false ∧ (0x82 : Byte).getLsbD 6 = false := by decide

theorem witness_StoppedFlagMeansContinuousSilence :
    stoppedState.params.renderEnabled = true ∧ (stoppedState.chan .c0).phase = .ready
    ∧ (stoppedState.chan .c0).regs.control.getLsbD 3 = true
    ∧ (stoppedState.chan .c0).out.length + 5 ≤ stoppedState.framesLeft := by decide

theorem witness_ChannelOperationFrame :
    channelOf (.chStep .c0) = some .c0 ∧ exec (.chStep .c0) playing = .next (after (.chStep .c0) playing) := ⟨rfl, rfl⟩

theorem witness_ChannelsCommute :
    channelOf (.chStep .c0) = some .c0 ∧ channelOf (.chBegin .c1) = some .c1 ∧ Chan.c0 ≠ Chan.c1 := by decide

theorem witness_PointerChangesInThreeWays :
    exec (.rcTick .c0) (fetchAt 0xC2 0x03FFFF 0 255 []) = .next (after (.rcTick .c0) (fetchAt 0xC2 0x03FFFF 0 255 []))
    ∧ Instr.rcTick .c0 ≠ .chStep .c0 := ⟨rfl, by decide⟩

theorem witness_ControlWriters :
    exec (.endStop .c0) (fetchAt 0x82 0x103 0x104 255 []) = .next (after (.endStop .c0) (fetchAt 0x82 0x103 0x104 255 [])) := rfl

theorem witness_PrivateStateWriters :
    exec (.hwRate .c0 1) playing = .next (after (.hwRate .c0 1) playing) ∧ Instr.hwRate .c0 1 ≠ .reset
    ∧ channelOf (.hwRate .c0 1) ≠ some .c0 ∧ Instr.hwRate .c0 1 ≠ .frameOut ∧ ∀ c f, Instr.hwRate .c0 1 ≠ .hrField c f :=
  ⟨rfl, by decide, by decide, by decide, nofun⟩

theorem witness_DisabledRenderingFreezes :
    ({ playing with params := { configB with renderEnabled := false } } : State).params.renderEnabled = false
    ∧ channelOf (.chBegin .c0) = some .c0 := by decide

theorem witness_SourceSuppliesSample : OwesDraw mixState 0 [BitVec.ofInt 16 (-32768)] := by decide
theorem witness_BusSummation : OwesFrame mixState := by decide
theorem witness_MatrixOfTheSums : mixState.params.renderEnabled = true := by decide
theorem witness_ClipSaturates :
    (-32769 : Int) < -32768 ∧ (32767 : Int) < 32768 ∧ ((-32768 : Int) ≤ -32768 ∧ (-32768 : Int) ≤ 32767)
    ∧ ((-32768 : Int) ≤ 32767 ∧ (32767 : Int) ≤ 32767) := by decide
theorem witness_ClipOperation : ({ mixState with mixOut := ⟨32768, -32769⟩ } : State).params.renderEnabled = true := by decide

/-- More frames to come; the last frame with no request; the last frame with one. -/
theorem witness_FrameOutput :
    (OwesFrame mixState ∧ 1 < mixState.framesLeft)
    ∧ (OwesFrame { mixState with framesLeft := 1 } ∧ ({ mixState with framesLeft := 1 } : State).requests = [])
    ∧ (OwesFrame { mixState with framesLeft := 1, requests := [3, 4] }
      ∧ ({ mixState with framesLeft := 1, requests := [3, 4] } : State).requests = 3 :: [4]) := by decide

/-- The corners of the configuration's range. -/
theorem witness_GainRanges :
    ((0 : Int) ≤ 100 ∧ (100 : Int) ≤ 100 ∧ (-100 : Int) ≤ -100 ∧ (-100 : Int) ≤ 100)
    ∧ ((0 : Int) ≤ 0 ∧ (0 : Int) ≤ 100 ∧ (-100 : Int) ≤ 100 ∧ (100 : Int) ≤ 100) := by decide
theorem witness_MatrixNeverAmplifies :
    (0 : Int) ≤ 75 ∧ (75 : Int) ≤ 100 ∧ (-100 : Int) ≤ -1 ∧ (-1 : Int) ≤ 100 := by decide

/-- The clauses of each argument, and the premise of the last. -/
theorem witness_ConfigurationStores :
    (some (150 : Int) = some 150 ∧ (none : Option Int) = none) ∧ (some (-101 : Int) = some (-101)) ∧ StateInv playing := by decide

theorem witness_ConfigurationWriters :
    exec (.hwVolume .c0 9) playing = .next (after (.hwVolume .c0 9) playing)
    ∧ (∀ v x, Instr.hwVolume .c0 9 ≠ .cfgSet v x) ∧ Instr.hwVolume .c0 9 ≠ .gainUpdate
    ∧ Instr.hwVolume .c0 9 ≠ .reset :=
  ⟨rfl, nofun, nofun, nofun⟩

/-- The first and the last offset of a block, and the first address after one. -/
theorem witness_IoAddressSelectsTheBlock :
    ParamsWf playing.params ∧ 0 < 13 ∧ 12 < 13
    ∧ ∀ c : Chan, 0x1D < playing.params.regBase.get c ∨ playing.params.regBase.get c + 13 ≤ 0x1D :=
  ⟨by decide, by decide, by decide, fun c => by cases c <;> decide⟩

/-- The last address of the array, and the first outside it. -/
theorem witness_HostStoresAByte : playing.mem.Wf ∧ 0xFFFFFF < playing.params.memSize := by decide
theorem witness_HostStoreOutsideTheArray : playing.params.memSize ≤ 0x1000000 := by decide

theorem witness_OnlyTheHostWritesMemory :
    exec (.rcTick .c0) (fetchAt 0x82 1 0 255 [(1, 0x7F)]) = .next (after (.rcTick .c0) (fetchAt 0x82 1 0 255 [(1, 0x7F)]))
    ∧ ∀ a b, Instr.rcTick .c0 ≠ .memWr a b := ⟨rfl, nofun⟩

/-- No pass running; a pass running. -/
theorem witness_RenderOpensAPass :
    (State.reset.params.renderEnabled = true ∧ 0 < 1 ∧ State.reset.framesLeft = 0)
    ∧ (playing.params.renderEnabled = true ∧ 0 < 1 ∧ 0 < playing.framesLeft) := by decide

theorem witness_PassesComplete :
    StateInv { playing with requests := [3] } ∧ ({ playing with requests := [3] } : State).inbox = []
    ∧ ({ playing with requests := [3] } : State).later = [] := by decide

/-- The playing channel with no pass running. -/
def idleState : State := { playing with framesLeft := 0 }

/-- The state after some steps of the machine. -/
def afterSteps (k : Nat) (s : State) : State :=
  match Host.Core.run Sys2Proof.core k s with
  | .next t => t
  | .fault _ => s
  | .refused _ => s

/-- The premises; and a pass of one frame, complete after seven steps: three of channel 0 (`CH.BEGIN`, one `RC.TICK`,
`CH.EMIT`), the `CH.IDLE` of each other channel, and `FRAME.OUT`. -/
theorem witness_PassesCompose :
    (StateInv idleState ∧ idleState.params.renderEnabled = true ∧ idleState.framesLeft = 0 ∧ idleState.inbox = []
      ∧ idleState.later = [])
    ∧ exec (.render 1) idleState = .next (after (.render 1) idleState)
    ∧ Host.Core.run Sys2Proof.core 7 (after (.render 1) idleState) = .next (afterSteps 7 (after (.render 1) idleState))
    ∧ (afterSteps 7 (after (.render 1) idleState)).framesLeft = 0
    ∧ (afterSteps 6 (after (.render 1) idleState)).framesLeft = 1 := ⟨by decide, rfl, rfl, by decide, by decide⟩

theorem witness_PseudoOperationsExpand : 3 < 4 ∧ 1 < 2 := by decide

end Sys2Proof.Tests
end

section
/-! The byte layout of a register block (R92). A little-endian field and its bytes
give each other, and so do a block and its 13 bytes. -/

namespace Sys2Proof.Machine

/-! ## A field and its bytes -/

/-- A byte appended below a field: the field's value moves up by one byte. -/
theorem append_byte_toNat {w : Nat} (x : BitVec w) (b : Byte) : (x ++ b).toNat = b.toNat + x.toNat * 256 := by
  rw [BitVec.toNat_append, ← Nat.shiftLeft_add_eq_or_of_lt b.isLt, Nat.shiftLeft_eq, Nat.add_comm]

theorem le24_toNat (b0 b1 b2 : Byte) : (le24 b0 b1 b2).toNat = b0.toNat + b1.toNat * 256 + b2.toNat * 65536 := by
  rw [le24, append_byte_toNat, append_byte_toNat]
  omega

theorem le16_toNat (b0 b1 : Byte) : (le16 b0 b1).toNat = b0.toNat + b1.toNat * 256 :=
  append_byte_toNat b1 b0

theorem byteOf_toNat {w : Nat} (v : BitVec w) (j : Nat) : (byteOf v j).toNat = v.toNat / 2 ^ (8 * j) % 256 := by
  simp [byteOf, Nat.shiftRight_eq_div_pow]

@[simp] theorem byteOf_le24_zero (b0 b1 b2 : Byte) : byteOf (le24 b0 b1 b2) 0 = b0 :=
  BitVec.eq_of_toNat_eq <| by rw [byteOf_toNat, le24_toNat]; omega

@[simp] theorem byteOf_le24_one (b0 b1 b2 : Byte) : byteOf (le24 b0 b1 b2) 1 = b1 :=
  BitVec.eq_of_toNat_eq <| by rw [byteOf_toNat, le24_toNat]; omega

@[simp] theorem byteOf_le24_two (b0 b1 b2 : Byte) : byteOf (le24 b0 b1 b2) 2 = b2 :=
  BitVec.eq_of_toNat_eq <| by rw [byteOf_toNat, le24_toNat]; omega

@[simp] theorem byteOf_le16_zero (b0 b1 : Byte) : byteOf (le16 b0 b1) 0 = b0 :=
  BitVec.eq_of_toNat_eq <| by rw [byteOf_toNat, le16_toNat]; omega

@[simp] theorem byteOf_le16_one (b0 b1 : Byte) : byteOf (le16 b0 b1) 1 = b1 :=
  BitVec.eq_of_toNat_eq <| by rw [byteOf_toNat, le16_toNat]; omega

@[simp] theorem le24_byteOf (v : BitVec 24) : le24 (byteOf v 0) (byteOf v 1) (byteOf v 2) = v :=
  BitVec.eq_of_toNat_eq <| by simp only [le24_toNat, byteOf_toNat]; omega

@[simp] theorem le16_byteOf (v : BitVec 16) : le16 (byteOf v 0) (byteOf v 1) = v :=
  BitVec.eq_of_toNat_eq <| by simp only [le16_toNat, byteOf_toNat]; omega

/-- A field that takes `v` holds `(v >> (8 * j)) & 0xFF` in each byte that lies within it (R92). -/
theorem byteOf_ofNat {w j : Nat} (h : 8 * j + 8 ≤ w) (v : Nat) :
    byteOf (BitVec.ofNat w v) j = BitVec.ofNat 8 (v >>> (8 * j)) := by
  refine BitVec.eq_of_getLsbD_eq fun i hi => ?_
  have hw : 8 * j + i < w := by omega
  simp only [byteOf, BitVec.getLsbD_extractLsb', BitVec.getLsbD_ofNat, Nat.testBit_shiftRight, hi, hw,
    decide_true, Bool.true_and]

/-! ## A block and its bytes -/

/-- The block whose bytes are `B` has the bytes `B` at its 13 offsets. -/
theorem regBlockBytes_regBlockOfBytes (B : Nat → Byte) : regBlockBytes (regBlockOfBytes B) = (List.range 13).map B := by
  simp [regBlockBytes, regBlockOfBytes, List.range_succ]

/-- A block is determined by its bytes. -/
theorem regBlockOfBytes_regBlockBytes (r : RegBlock) : regBlockOfBytes (fun k => (regBlockBytes r).getD k 0) = r := by
  simp [regBlockBytes, regBlockOfBytes]

/-! ## The bytes a field write stores -/

/-- The bytes of a field of at least `n` bytes that takes `v`, lowest offset first (R92). -/
theorem map_byteOf_ofNat {w n : Nat} (h : 8 * n ≤ w) (v : Nat) :
    (List.range n).map (byteOf (BitVec.ofNat w v)) = (List.range n).map fun j => BitVec.ofNat 8 (v >>> (8 * j)) :=
  List.map_congr_left fun j hj => byteOf_ofNat (by have := List.mem_range.mp hj; omega) v

/-- Settles O5: the fields by the values of `le24` and `le16`, the two inverses by the lemmas on a block and its bytes,
and each field write by `map_byteOf_ofNat` at the field's width. -/
theorem registerBlockLayout : Obligations.RegisterBlockLayout := by
  unfold Obligations.RegisterBlockLayout
  refine ⟨fun B => ?fields, regBlockOfBytes_regBlockBytes, fun r v => ?writes⟩
  case fields =>
    exact ⟨rfl, le24_toNat .., le24_toNat .., le16_toNat .., rfl, le24_toNat .., regBlockBytes_regBlockOfBytes B⟩
  case writes =>
    have h24 := map_byteOf_ofNat (w := 24) (n := 3) (by omega) v
    have h16 := map_byteOf_ofNat (w := 16) (n := 2) (by omega) v
    exact ⟨rfl, h24, h24, h16, rfl, h24⟩

end Sys2Proof.Machine
end

section
/-! The rate converter (spec/40_rate_converter.md): the addition that begins an output sample of a PLAYING channel
(R121), and the emission that ends it (R124). -/

namespace Sys2Proof.Machine

/-! ## Operations in sequence -/

@[simp] theorem execAll_nil (s : State) : execAll [] s = .next s := rfl

/-- An operation that answers a next state hands it to the operations after it. -/
theorem execAll_cons_of_next {i : Instr} {s t : State} (h : exec i s = .next t) (rest : List Instr) :
    execAll (i :: rest) s = execAll rest t := by
  simp only [execAll, h]

/-- Replacing a channel twice keeps the second replacement. -/
@[simp] theorem setChan_setChan_same (s : State) (c : Chan) (ch ch' : Channel) :
    (s.setChan c ch).setChan c ch' = s.setChan c ch' := by
  cases c <;> rfl

/-! ## RC.ADD -/

/-- A channel with `EN = 1` and `STP = 0` is not STOPPED (R141). -/
theorem stopped_eq_false {ctl : Byte} (hen : ctl.getLsbD 7 = true) (hstp : ctl.getLsbD 3 = false) :
    stopped ctl = false := by
  rw [Bool.eq_false_iff, ne_eq, stopped_iff, hen, hstp]
  decide

/-- `CH.BEGIN` of a PLAYING channel is `RC.ADD` (R141). -/
theorem begin_of_playing (p : Params) {ch : Channel} (h : stopped ch.regs.control = false) :
    ch.begin p = ch.rcAdd p := by
  simp [Channel.begin, h]

/-- The state after `CH.BEGIN` of a PLAYING channel. -/
theorem beginChan_of_playing {s : State} {c : Chan} (h : stopped (s.chan c).regs.control = false) :
    s.beginChan c = s.setChan c ((s.chan c).rcAdd s.params) := by
  rw [State.beginChan, begin_of_playing s.params h]

/-- An enabled `RC.ADD` is the `CH.BEGIN` that performs it (R121, log 4). -/
theorem exec_rcAdd {s : State} {c : Chan} (h : OwesSample s c) (hplay : stopped (s.chan c).regs.control = false) :
    exec (.rcAdd c) s = .next (s.beginChan c) := by
  simp [exec, execRcAdd, (canBegin_iff s c).2 h, hplay]

/-- Settles O16: both rows take the step of `beginChan_of_playing`, and what `RC.ADD` does to a channel is its
definition. -/
theorem rateAddition : Obligations.RateAddition := by
  unfold Obligations.RateAddition
  intro s c howes hen hstp i hi
  have hplay := stopped_eq_false hen hstp
  have hexec : exec i s = .next (s.setChan c ((s.chan c).rcAdd s.params)) := by
    rw [← beginChan_of_playing hplay]
    rcases List.mem_pair.mp hi with rfl | rfl
    · exact exec_rcAdd howes hplay
    · exact exec_chBegin s howes
  exact ⟨_, hexec, setChan_onlyChannel .., chan_setChan_same ..⟩

/-! ## CH.EMIT -/

/-- An output sample of a PLAYING channel in which no tick occurs is `RC.ADD` and `CH.EMIT` (R140). -/
theorem execAll_begin_emit_of_no_tick {s : State} {c : Chan} (howes : OwesSample s c)
    (hplay : stopped (s.chan c).regs.control = false)
    (hlow : (s.chan c).accn + (s.chan c).regs.rateIncrement.toNat * ratioNum s.params < accOne s.params) :
    execAll [.chBegin c, .chEmit c] s = .next (s.setChan c ((s.chan c).rcAdd s.params).emit) := by
  have hbegin := exec_chBegin s howes
  rw [beginChan_of_playing hplay] at hbegin
  have hemit : OwesEmit (s.setChan c ((s.chan c).rcAdd s.params)) c := by
    simpa [OwesEmit, Channel.rcAdd, deltaN] using And.intro howes.1 hlow
  rw [execAll_cons_of_next hbegin, execAll_cons_of_next (exec_chEmit _ hemit)]
  simp

/-- Settles O17: `CH.EMIT` by `exec_chEmit`; it leaves the channel READY with its registers, accumulator and held sample,
so the next output sample is that of `execAll_begin_emit_of_no_tick`, whose two operations keep the held sample. -/
theorem emitHoldsTheSample : Obligations.EmitHoldsTheSample := by
  unfold Obligations.EmitHoldsTheSample
  intro s c howes
  refine ⟨_, exec_chEmit s howes, setChan_onlyChannel .., chan_setChan_same .., fun hleft hen hstp hlow => ?_⟩
  have hnext : OwesSample (s.setChan c (s.chan c).emit) c := ⟨howes.1, by simp [Channel.emit], hleft⟩
  have hrun := execAll_begin_emit_of_no_tick hnext
    (by simpa [Channel.emit] using stopped_eq_false hen hstp) (by simpa [Channel.emit] using hlow)
  rw [setChan_setChan_same] at hrun
  exact ⟨_, hrun, setChan_onlyChannel .., by simp [Channel.emit, Channel.rcAdd], by simp [Channel.emit, Channel.rcAdd]⟩

end Sys2Proof.Machine
end

section
/-! The channel engine (spec/41_dma_channel_engine.md): the output sample of a STOPPED channel (R142). -/

namespace Sys2Proof.Machine

/-! ## The state test -/

/-- STOPPED is the two `CH.IDLE` classes of the control byte (R94, R141). -/
theorem stopped_iff_ctrlClass (ctl : Byte) :
    stopped ctl = true ↔ ctrlClass ctl = .idleDisabled ∨ ctrlClass ctl = .idleStopped := by
  rw [stopped_iff, ctrlClass]
  split
  case isTrue hdis => exact iff_of_true (.inl hdis) (.inl rfl)
  case isFalse hen =>
    split
    case isTrue hstp => exact iff_of_true (.inr hstp) (.inr rfl)
    case isFalse hplay => exact iff_of_false (not_or.mpr ⟨hen, hplay⟩) (by simp)

/-! ## CH.IDLE -/

/-- `CH.BEGIN` of a STOPPED channel is `CH.IDLE` (R141). -/
theorem begin_of_stopped (p : Params) {ch : Channel} (h : stopped ch.regs.control = true) : ch.begin p = ch.idle := by
  simp [Channel.begin, h]

/-- `CH.STEP` of a STOPPED channel is `CH.IDLE` (R140). -/
theorem step_of_stopped (p : Params) (m : Memory) {ch : Channel} (h : stopped ch.regs.control = true) :
    ch.step p m = ch.idle := by
  simp [Channel.step, h]

/-- The state after `CH.BEGIN` of a STOPPED channel. -/
theorem beginChan_of_stopped {s : State} {c : Chan} (h : stopped (s.chan c).regs.control = true) :
    s.beginChan c = s.setChan c (s.chan c).idle := by
  rw [State.beginChan, begin_of_stopped s.params h]

/-- An enabled `CH.STEP` is taken (R140). -/
theorem exec_chStep {s : State} {c : Chan} (h : OwesSample s c) :
    exec (.chStep c) s = .next (s.setChan c ((s.chan c).step s.params s.mem)) := by
  simp [exec, execChStep, (canBegin_iff s c).2 h]

/-- An enabled row 1 of `CH.IDLE` is the `CH.BEGIN` that performs it (R142, log 4). -/
theorem exec_chIdleDisabled {s : State} {c : Chan} (ctl : Byte) (h : OwesSample s c)
    (hcls : ctrlClass (s.chan c).regs.control = .idleDisabled) :
    exec (.chIdleDisabled c ctl) s = .next (s.beginChan c) := by
  simp [exec, execChIdleDisabled, (canBegin_iff s c).2 h, hcls]

/-- An enabled row 2 of `CH.IDLE` is the `CH.BEGIN` that performs it (R142, log 4). -/
theorem exec_chIdleStopped {s : State} {c : Chan} (ctl : Byte) (h : OwesSample s c)
    (hcls : ctrlClass (s.chan c).regs.control = .idleStopped) :
    exec (.chIdleStopped c ctl) s = .next (s.beginChan c) := by
  simp [exec, execChIdleStopped, (canBegin_iff s c).2 h, hcls]

/-- Of a STOPPED channel, the `CH.IDLE` row of its class, `CH.BEGIN` and `CH.STEP` are one step, whose effect is that
of `CH.IDLE` on the channel (R140 to R142). -/
theorem exec_eq_idle_of_stopped {s : State} {c : Chan} {idleRow : Instr} (howes : OwesSample s c)
    (hstop : stopped (s.chan c).regs.control = true) (hrow : exec idleRow s = .next (s.beginChan c)) :
    ∀ i ∈ [idleRow, .chBegin c, .chStep c], exec i s = .next (s.setChan c (s.chan c).idle) := by
  rw [List.forall_mem_cons, List.forall_mem_cons, List.forall_mem_singleton, ← beginChan_of_stopped hstop]
  refine ⟨hrow, exec_chBegin s howes, ?_⟩
  rw [exec_chStep howes, step_of_stopped s.params s.mem hstop, beginChan_of_stopped hstop]

/-- Settles O22: each mask of R94 names one of the two STOPPED classes, in which the three operations are the one step of
`exec_eq_idle_of_stopped`; that step replaces the channel alone, by the fields that `CH.IDLE` writes. -/
theorem stoppedSampleIsSilent : Obligations.StoppedSampleIsSilent := by
  unfold Obligations.StoppedSampleIsSilent
  intro s c ctl howes
  refine ⟨fun hmask i hi => ?disabled, fun hmask i hi => ?stopped⟩
  case disabled =>
    have hcls := (ctrlClass_idleDisabled_iff _).mpr hmask
    have hstop := (stopped_iff_ctrlClass _).mpr (.inl hcls)
    have hexec := exec_eq_idle_of_stopped howes hstop (exec_chIdleDisabled ctl howes hcls) i hi
    exact ⟨_, hexec, setChan_onlyChannel .., chan_setChan_same ..⟩
  case stopped =>
    have hcls := (ctrlClass_idleStopped_iff _).mpr hmask
    have hstop := (stopped_iff_ctrlClass _).mpr (.inr hcls)
    have hexec := exec_eq_idle_of_stopped howes hstop (exec_chIdleStopped ctl howes hcls) i hi
    exact ⟨_, hexec, setChan_onlyChannel .., chan_setChan_same ..⟩

end Sys2Proof.Machine
end

section
/-! The mixer (spec/44_audio_mixer_router.md): the gains derived from the master volume and the stereo separation
(R221). -/

namespace Sys2Proof.Machine

/-! ## GAIN.UPDATE -/

/-- `gainPrimary = sepHalf × masterVolume / 100`, with truncating divisions (R221). -/
theorem updateGains_gainPrimary (s : State) :
    s.updateGains.gainPrimary = Int.tdiv (Int.tdiv (s.stereoSeparation + 100) 2 * s.masterVolume) 100 := rfl

/-- `gainCross = (100 − sepHalf) × masterVolume / 100`, with truncating divisions (R221). -/
theorem updateGains_gainCross (s : State) :
    s.updateGains.gainCross = Int.tdiv ((100 - Int.tdiv (s.stereoSeparation + 100) 2) * s.masterVolume) 100 := rfl

/-- The frame of the derivation: it writes the two gains only. -/
theorem updateGains_onlyGains (s : State) :
    s.updateGains = { s with gainPrimary := s.updateGains.gainPrimary, gainCross := s.updateGains.gainCross } := rfl

/-- `GAIN.UPDATE` is enabled in every state and is the derivation alone (R221). -/
theorem exec_gainUpdate (s : State) : exec .gainUpdate s = .next s.updateGains := rfl

/-- Settles O47: `GAIN.UPDATE` leads to `updateGains`, whose two gains and frame are the lemmas above. -/
theorem gainsAreDerived : Obligations.GainsAreDerived := by
  unfold Obligations.GainsAreDerived
  intro s
  exact ⟨s.updateGains, exec_gainUpdate s, updateGains_gainPrimary s, updateGains_gainCross s, updateGains_onlyGains s⟩

end Sys2Proof.Machine
end

section
/-! The output clipper (spec/45_output_clipper.md): saturation to signed 16 bits (R240), from the clamp of R15. -/

namespace Sys2Proof.Machine

/-! ## Clamping into an interval -/

section
variable {x lo hi : Int}

theorem clamp_of_lt (h : x < lo) : clamp x lo hi = lo := if_pos h

theorem clamp_of_gt (hle : lo ≤ hi) (h : hi < x) : clamp x lo hi = hi := by
  have hlo : ¬ x < lo := by omega
  rw [clamp, if_neg hlo, if_pos h]

theorem clamp_of_mem (hlo : lo ≤ x) (hhi : x ≤ hi) : clamp x lo hi = x := by
  rw [clamp, if_neg (Int.not_lt.mpr hlo), if_neg (Int.not_lt.mpr hhi)]

/-- A clamped value lies in the interval. -/
theorem clamp_mem (x : Int) (hle : lo ≤ hi) : lo ≤ clamp x lo hi ∧ clamp x lo hi ≤ hi := by
  rcases lt_or_ge x lo with hlo | hlo
  · rw [clamp_of_lt hlo]; exact ⟨Int.le_refl _, hle⟩
  rcases lt_or_ge hi x with hhi | hhi
  · rw [clamp_of_gt hle hhi]; exact ⟨hle, Int.le_refl _⟩
  · rw [clamp_of_mem hlo hhi]; exact ⟨hlo, hhi⟩

end

/-! ## CLIP.S16 -/

theorem clip16_of_lt {x : Int} (h : x < -32768) : clip16 x = -32768 := clamp_of_lt h

theorem clip16_of_gt {x : Int} (h : 32767 < x) : clip16 x = 32767 := clamp_of_gt (by decide) h

theorem clip16_of_mem {x : Int} (hlo : -32768 ≤ x) (hhi : x ≤ 32767) : clip16 x = x := clamp_of_mem hlo hhi

/-- The clipped value is a signed 16-bit integer. -/
theorem clip16_mem (x : Int) : -32768 ≤ clip16 x ∧ clip16 x ≤ 32767 := clamp_mem x (by decide)

/-- Idempotence: the clipped value is in range, where the clip is the identity. -/
@[simp] theorem clip16_clip16 (x : Int) : clip16 (clip16 x) = clip16 x := by
  obtain ⟨hlo, hhi⟩ := clip16_mem x
  exact clip16_of_mem hlo hhi

/-- Settles O40: the integer lies below, above or in the signed 16-bit range, and a second clip changes nothing. -/
theorem clipSaturates : Obligations.ClipSaturates := by
  unfold Obligations.ClipSaturates
  intro x
  exact ⟨clip16_of_lt, clip16_of_gt, clip16_of_mem, clip16_clip16 x⟩

end Sys2Proof.Machine
end

section
/-! The host operations (spec/46_host_ops_and_render_pass.md): field writes (R251 to R256), byte writes (R262), read-backs
(R260) and memory stores (R264). -/

namespace Sys2Proof.Machine

/-- The written channel takes the new block and keeps the rest of its state. -/
theorem chan_setRegs_same (s : State) (c : Chan) (r : RegBlock) :
    (s.setRegs c r).chan c = { s.chan c with regs := r } := chan_setChan_same ..

/-! ## Field writes -/

/-- The write of a field is enabled in every state (R251 to R256, R265). -/
theorem exec_fieldWrite (s : State) (c : Chan) (f : RegField) (v : Nat) :
    exec (fieldWrite c f v) s = .next (s.setRegs c (writeField (s.chan c).regs f v)) := by
  cases f <;> rfl

/-- A field write changes one register block, by `writeField` alone (R250). -/
theorem fieldWrite_stores (s : State) (c : Chan) (f : RegField) (v : Nat) :
    ∃ t, exec (fieldWrite c f v) s = .next t ∧ OnlyChannel c s t
      ∧ t.chan c = { s.chan c with regs := writeField (s.chan c).regs f v } :=
  ⟨_, exec_fieldWrite s c f v, setRegs_onlyChannel .., chan_setRegs_same ..⟩

/-- Settles O49: each row is `fieldWrite_stores` at its field. -/
theorem hostFieldWritesStore : Obligations.HostFieldWritesStore := by
  unfold Obligations.HostFieldWritesStore
  intro s c v
  exact ⟨fieldWrite_stores s c .control v, fieldWrite_stores s c .startAddress v, fieldWrite_stores s c .rateIncrement v,
    fieldWrite_stores s c .endAddress v, fieldWrite_stores s c .volume v⟩

/-! ## Byte writes -/

/-- The field that contains the offset takes its present value with that byte replaced, so of the bytes of the block
that one alone changes (R91, R262). -/
theorem regBlockBytes_writeByteAt (r : RegBlock) {off : Nat} (h : off < 13) (b : Byte) :
    regBlockBytes (writeByteAt r off b) = (regBlockBytes r).set off b := by
  interval_cases off <;> simp [writeByteAt, regBlockBytes]

/-- The REGOFF4 row of an offset within the block writes that byte, in every state (R91, R262). -/
theorem exec_decodeOffset_of_lt (s : State) (c : Chan) (b : Byte) {off : Nat} (h : off < 13) :
    exec (decodeOffset (BitVec.ofNat 4 off) c b) s = .next (s.hostByte c off b) := by
  interval_cases off <;> rfl

/-- A byte write within the block replaces that byte of one register block (R262). -/
theorem hostByte_replaces (s : State) (c : Chan) (b : Byte) {off : Nat} (h : off < 13) :
    OnlyChannel c s (s.hostByte c off b)
      ∧ (s.hostByte c off b).chan c = { s.chan c with regs := ((s.hostByte c off b).chan c).regs }
      ∧ regBlockBytes ((s.hostByte c off b).chan c).regs = (regBlockBytes (s.chan c).regs).set off b := by
  refine ⟨setRegs_onlyChannel .., ?_, ?_⟩
  · rw [State.hostByte, chan_setRegs_same]
  · rw [State.hostByte, setRegs_regs, regBlockBytes_writeByteAt _ h]

/-- Settles O51: the thirteen rows are those of `decodeOffset` at the offsets below 13, each of which takes the step of
`hostByte_replaces`; the three `NONE` rows leave the state. -/
theorem hostByteWritesReplaceOneByte : Obligations.HostByteWritesReplaceOneByte := by
  unfold Obligations.HostByteWritesReplaceOneByte
  intro s c b
  constructor
  case left =>
    change ∀ e ∈ (List.range 13).map fun off => (decodeOffset (BitVec.ofNat 4 off) c b, off), _
    rw [List.forall_mem_map]
    intro off hmem
    have hoff := List.mem_range.mp hmem
    exact ⟨_, exec_decodeOffset_of_lt s c b hoff, hostByte_replaces s c b hoff⟩
  case right =>
    rw [List.forall_mem_cons, List.forall_mem_cons, List.forall_mem_singleton]
    exact ⟨rfl, rfl, rfl⟩

/-! ## Read-backs -/

/-- `HR.FIELD` appends the field's value to the read-backs, in every state (R260). -/
theorem exec_hrField (s : State) (c : Chan) (f : RegField) :
    exec (.hrField c f) s = .next { s with reads := s.reads ++ [⟨c, f, readFieldValue (s.chan c).regs f⟩] } := rfl

/-- Settles O53: the value read is `readFieldValue`, which is the field itself where that has 24 bits and its
zero-extension where it is narrower. -/
theorem hostReadsAField : Obligations.HostReadsAField := by
  unfold Obligations.HostReadsAField
  intro s c f
  refine ⟨_, exec_hrField s c f, ⟨readFieldValue (s.chan c).regs f, rfl, ?control, ?startAddress, ?rateIncrement,
    ?endAddress, ?volume, ?currentAddress⟩, rfl⟩ <;> rintro rfl
  case control | endAddress | volume => exact BitVec.toNat_setWidth_of_le (by decide)
  case startAddress | rateIncrement | currentAddress => rfl

/-! ## Memory stores -/

/-- A store within the array is a write of the memory (R264). -/
theorem exec_memWr_of_lt {s : State} {a : Nat} (h : a < s.params.memSize) (b : Byte) :
    exec (.memWr a b) s = .next { s with mem := s.mem.write a b } := by
  simp [exec, execMemWr, State.hostStore, h]

/-- Settles O54: the store is `Memory.write`, which sets the byte at the address alone and keeps the canonical form. -/
theorem hostStoresAByte : Obligations.HostStoresAByte := by
  unfold Obligations.HostStoresAByte
  intro s a b hwf ha
  exact ⟨_, exec_memWr_of_lt ha b, read_write_same hwf a b, fun _ hne => read_write_other b hne, write_wf hwf a b, rfl⟩

end Sys2Proof.Machine
end

section
/-! The messages of the model's own encoding (log 1): every operation's message reads back as the operation, and the
decoder accepts no other spelling. -/

namespace Sys2Proof

/-! ## Operands read back as they were written -/

@[simp] theorem readWithChan_chanByte (f : Chan → Instr) (c : Chan) (rest : List Byte) :
    readWithChan f (chanByte c :: rest) = .ok (f c, rest) := by
  simp [readWithChan, Read.done]

@[simp] theorem readWithChanNat_encode (f : Chan → Nat → Instr) (c : Chan) (v : Nat) (rest : List Byte) :
    readWithChanNat f (chanByte c :: (encodeNat v ++ rest)) = .ok (f c v, rest) := by
  simp [readWithChanNat, Read.done]

@[simp] theorem readWithNatByte_encode (f : Nat → Byte → Instr) (a : Nat) (b : Byte) (rest : List Byte) :
    readWithNatByte f (encodeNat a ++ ([b] ++ rest)) = .ok (f a b, rest) := by
  simp [readWithNatByte, Read.done]

/-! ## The control byte -/

/-- The match value of the CTRL8 row of a format (R94). -/
def playPattern : Format → Byte
  | .lo4 => 0x80
  | .hi4 => 0x81
  | .b8 => 0x82
  | .w16 => 0x83

theorem ctrlClass_play_iff (ctl : Byte) (f : Format) : ctrlClass ctl = .play f ↔ ctl &&& 0x8B = playPattern f := by
  revert ctl; cases f <;> decide +kernel

/-- `EN = 0` is the class of the first row (R94). -/
theorem ctrlClass_idleDisabled_iff_en (ctl : Byte) : ctrlClass ctl = .idleDisabled ↔ ctl.getLsbD 7 = false := by
  rw [ctrlClass]
  split
  case isTrue hdis => exact iff_of_true rfl hdis
  case isFalse hen => split <;> exact iff_of_false nofun hen

/-- The row read from a control byte admits that byte (R94, R111). -/
theorem decodeControl_wellFormed (ctl : Byte) (c : Chan) : (decodeControl ctl c).wellFormed = true := by
  rw [decodeControl]
  split <;> rename_i hcls
  case h_1 => exact beq_iff_eq.mpr ((Machine.ctrlClass_idleDisabled_iff ctl).mp hcls)
  case h_2 => exact beq_iff_eq.mpr ((Machine.ctrlClass_idleStopped_iff ctl).mp hcls)
  all_goals exact beq_iff_eq.mpr ((ctrlClass_play_iff ctl _).mp hcls)

/-- The message of the row read from a control byte with `EN = 1` is that byte and the channel. -/
theorem encode_decodeControl_enabled {ctl : Byte} (hen : ctl.getLsbD 7 = true) (c : Chan) :
    encode (decodeControl ctl c) = [ctl, chanByte c] := by
  have hcls : ctrlClass ctl ≠ .idleDisabled := by simp [ctrlClass_idleDisabled_iff_en, hen]
  rw [decodeControl]
  split
  case h_1 hdis => exact absurd hdis hcls
  all_goals rfl

/-- The message of the row read from a control byte with `EN = 0` has the lead byte 0x40. -/
theorem encode_decodeControl_disabled {ctl : Byte} (hdis : ctl.getLsbD 7 = false) (c : Chan) :
    encode (decodeControl ctl c) = [0x40, ctl, chanByte c] := by
  simp [decodeControl, (ctrlClass_idleDisabled_iff_en ctl).mpr hdis, encode]

/-- A control byte with `EN = 1` and its channel read as the row of the byte. -/
theorem decode_enabled {ctl : Byte} (hen : ctl.getLsbD 7 = true) (c : Chan) (rest : List Byte) :
    decode (ctl :: chanByte c :: rest) = .ok (decodeControl ctl c, rest) := by
  simp only [decode, hen, if_true, readWithChan_chanByte]

/-- After the lead 0x40, a control byte with `EN = 0` and its channel read as the row of the byte. -/
theorem decode_disabled {ctl : Byte} (hdis : ctl.getLsbD 7 = false) (c : Chan) (rest : List Byte) :
    decode (0x40 :: ctl :: chanByte c :: rest) = .ok (decodeControl ctl c, rest) := by
  change readDisabled (ctl :: chanByte c :: rest) = _
  simp only [readDisabled, readByte_cons, andThen_ok, hdis, Bool.false_eq_true, if_false, readWithChan_chanByte]

/-- The row of a class other than the first reads back from the control byte and the channel. -/
theorem decode_of_class {ctl : Byte} {k : CtrlClass} (hcls : ctrlClass ctl = k) (hk : k ≠ .idleDisabled) (c : Chan)
    (rest : List Byte) : decode (ctl :: chanByte c :: rest) = .ok (decodeControl ctl c, rest) := by
  refine decode_enabled ?_ c rest
  rwa [← hcls, ne_eq, ctrlClass_idleDisabled_iff_en, Bool.not_eq_false] at hk

theorem decode_of_play {ctl : Byte} {f : Format} (hmask : ctl &&& 0x8B = playPattern f) (c : Chan) (rest : List Byte) :
    decode (ctl :: chanByte c :: rest) = .ok (Machine.fetchRow f c ctl, rest) := by
  have hcls := (ctrlClass_play_iff ctl f).mpr hmask
  rw [decode_of_class hcls nofun]
  cases f <;> simp [decodeControl, hcls, Machine.fetchRow]

/-! ## The byte offset -/

/-- The message of the row of an offset is the lead byte of the offset and the byte written. -/
theorem encode_decodeOffset (off : BitVec 4) (c : Chan) (b : Byte) :
    encode (decodeOffset off c b) = encodeOffset off.toNat c b := by
  obtain ⟨n, hn⟩ := off
  change n < 16 at hn
  interval_cases n <;> rfl

theorem decodeOffset_wellFormed (off : BitVec 4) (c : Chan) (b : Byte) :
    (decodeOffset off c b).wellFormed = true := by
  unfold decodeOffset
  split <;> rfl

/-- The lead byte of an offset and the byte written read as the row of the offset. -/
theorem decode_encodeOffset {off : Nat} (h : off < 16) (c : Chan) (b : Byte) (rest : List Byte) :
    decode (encodeOffset off c b ++ rest) = .ok (decodeOffset (BitVec.ofNat 4 off) c b, rest) := by
  interval_cases off <;> cases c <;> rfl

/-- A lead byte 00ccoooo is the one the message of offset oooo of channel cc begins with. -/
theorem offsetLead_eq {lead : Byte} (h7 : lead.getLsbD 7 = false) (h6 : lead.getLsbD 6 = false) :
    BitVec.ofNat 8 (16 * (chanOfBits (lead.getLsbD 5) (lead.getLsbD 4)).toNat + (lead.extractLsb' 0 4).toNat)
      = lead := by
  revert lead; decide +kernel

/-! ## Every message reads back -/

/-- Settles O1: the CTRL8 rows by the class of their control byte, the REGOFF4 rows by `decode_encodeOffset`, each PORT
row by its lead byte and the readings of its operands. -/
theorem decodeEncodeRoundTrip : Obligations.DecodeEncodeRoundTrip := by
  unfold Obligations.DecodeEncodeRoundTrip
  intro i rest hwf
  cases i with
  | chIdleDisabled c ctl =>
    have hcls := (Machine.ctrlClass_idleDisabled_iff ctl).mpr (beq_iff_eq.mp hwf)
    refine (decode_disabled ((ctrlClass_idleDisabled_iff_en ctl).mp hcls) c rest).trans ?_
    simp [decodeControl, hcls]
  | chIdleStopped c ctl =>
    have hcls := (Machine.ctrlClass_idleStopped_iff ctl).mpr (beq_iff_eq.mp hwf)
    refine (decode_of_class hcls nofun c rest).trans ?_
    simp [decodeControl, hcls]
  | fetchLo4 c ctl => exact decode_of_play (f := .lo4) (beq_iff_eq.mp hwf) c rest
  | fetchHi4 c ctl => exact decode_of_play (f := .hi4) (beq_iff_eq.mp hwf) c rest
  | fetchB8 c ctl => exact decode_of_play (f := .b8) (beq_iff_eq.mp hwf) c rest
  | fetchW16 c ctl => exact decode_of_play (f := .w16) (beq_iff_eq.mp hwf) c rest
  | hwByte0 c b => exact decode_encodeOffset (off := 0x0) (by decide) c b rest
  | hwByte1 c b => exact decode_encodeOffset (off := 0x1) (by decide) c b rest
  | hwByte2 c b => exact decode_encodeOffset (off := 0x2) (by decide) c b rest
  | hwByte3 c b => exact decode_encodeOffset (off := 0x3) (by decide) c b rest
  | hwByte4 c b => exact decode_encodeOffset (off := 0x4) (by decide) c b rest
  | hwByte5 c b => exact decode_encodeOffset (off := 0x5) (by decide) c b rest
  | hwByte6 c b => exact decode_encodeOffset (off := 0x6) (by decide) c b rest
  | hwByte7 c b => exact decode_encodeOffset (off := 0x7) (by decide) c b rest
  | hwByte8 c b => exact decode_encodeOffset (off := 0x8) (by decide) c b rest
  | hwByte9 c b => exact decode_encodeOffset (off := 0x9) (by decide) c b rest
  | hwByteA c b => exact decode_encodeOffset (off := 0xA) (by decide) c b rest
  | hwByteB c b => exact decode_encodeOffset (off := 0xB) (by decide) c b rest
  | hwByteC c b => exact decode_encodeOffset (off := 0xC) (by decide) c b rest
  | noneD c b => exact decode_encodeOffset (off := 0xD) (by decide) c b rest
  | noneE c b => exact decode_encodeOffset (off := 0xE) (by decide) c b rest
  | noneF c b => exact decode_encodeOffset (off := 0xF) (by decide) c b rest
  | chStep c | chBegin c | rcAdd c | rcTick c | chEmit c | volScale c | endLoop c | endStop c =>
    exact readWithChan_chanByte _ c rest
  | srcIn k x =>
    change decodePort 0x49 (encodeNat k ++ encodeSample x ++ rest) = _
    simp [decodePort, Read.done]
  | mixSum | mixMatrix | frameOut | gainUpdate | reset => rfl
  | clipS16 side =>
    change decodePort 0x4C (sideByte side :: rest) = _
    simp [decodePort, Read.done]
  | cfgSet v sep =>
    change decodePort 0x4E (encodeArg v ++ encodeArg sep ++ rest) = _
    simp [decodePort, Read.done]
  | hwControl c v | hwStart c v | hwRate c v | hwEnd c v | hwVolume c v | hwCurrent c v =>
    exact readWithChanNat_encode _ c v rest
  | hwByte a b | memWr a b =>
    refine Eq.trans ?_ (readWithNatByte_encode _ a b rest)
    rw [← List.append_assoc]; rfl
  | hrField c f =>
    change decodePort 0x57 (chanByte c :: fieldByte f :: rest) = _
    simp [decodePort, Read.done]
  | render n =>
    change decodePort 0x59 (encodeNat n ++ rest) = _
    simp [decodePort, Read.done]

end Sys2Proof
end

section
/-! The decoder's inversion (log 1): what each reading accepts is the one spelling of its part, so whatever the decoder
accepts is the message of a well-formed operation. -/

namespace Sys2Proof

/-! ## The parts of a message -/

theorem readByte_eq_ok {bs rest : List Byte} {b : Byte} (h : readByte bs = .ok (b, rest)) : bs = b :: rest := by
  cases bs with
  | nil => cases h
  | cons b' tl => cases h; rfl

theorem chanByte_chanOfBits {b : Byte} (h : b.toNat < 4) : chanByte (chanOfBits (b.getLsbD 1) (b.getLsbD 0)) = b := by
  revert b; decide +kernel

theorem readChan_eq_ok {bs rest : List Byte} {c : Chan} (h : readChan bs = .ok (c, rest)) :
    bs = chanByte c :: rest := by
  cases bs with
  | nil => cases h
  | cons b tl =>
    rw [readChan] at h
    split at h
    case isTrue hlt => cases h; rw [chanByte_chanOfBits hlt]
    case isFalse => cases h

/-- A byte is written out by its value. -/
theorem byte_eq_of_toNat {b : Byte} {n : Nat} (h : b.toNat = n) : b = BitVec.ofNat 8 n := by
  rw [← h, BitVec.ofNat_toNat, BitVec.setWidth_eq]

theorem readSide_eq_ok {bs rest : List Byte} {side : Side} (h : readSide bs = .ok (side, rest)) :
    bs = sideByte side :: rest := by
  cases bs with
  | nil => cases h
  | cons b tl =>
    rw [readSide] at h
    split at h
    case h_3 => cases h
    all_goals rename_i hb; cases h; rw [byte_eq_of_toNat hb]; rfl

theorem readField_eq_ok {bs rest : List Byte} {f : RegField} (h : readField bs = .ok (f, rest)) :
    bs = fieldByte f :: rest := by
  cases bs with
  | nil => cases h
  | cons b tl =>
    rw [readField] at h
    split at h
    case h_7 => cases h
    all_goals rename_i hb; cases h; rw [byte_eq_of_toNat hb]; rfl

theorem encodeSample_append (hi lo : Byte) : encodeSample (hi ++ lo) = [lo, hi] := by
  have hlo : (hi ++ lo).extractLsb' 0 8 = lo := Machine.byteOf_le16_zero lo hi
  have hhi : (hi ++ lo).extractLsb' 8 8 = hi := Machine.byteOf_le16_one lo hi
  rw [encodeSample, hlo, hhi]

theorem readSample_eq_ok {bs rest : List Byte} {x : Sample} (h : readSample bs = .ok (x, rest)) :
    bs = encodeSample x ++ rest := by
  obtain ⟨lo, r, hlo, h⟩ := andThen_eq_ok h
  obtain ⟨hi, r', hhi, h⟩ := andThen_eq_ok h
  cases h
  rw [readByte_eq_ok hlo, readByte_eq_ok hhi, encodeSample_append]
  rfl

/-! ## Numbers -/

theorem encodeNat_of_lt {n : Nat} (h : n < 128) : encodeNat n = [BitVec.ofNat 8 n] := by
  cases n with
  | zero => rfl
  | succ k => rw [encodeNat, encodeNatFuel, if_pos h]

theorem encodeNat_of_ge {n : Nat} (h : 128 ≤ n) :
    encodeNat n = BitVec.ofNat 8 (128 + n % 128) :: encodeNat (n / 128) := by
  obtain ⟨k, rfl⟩ : ∃ k, n = k + 1 := ⟨n - 1, by omega⟩
  rw [encodeNat, encodeNatFuel, if_neg (by omega), encodeNatFuel_eq _ _ (by omega)]

theorem readNat_eq_ok {bs rest : List Byte} {n : Nat} (h : readNat bs = .ok (n, rest)) : bs = encodeNat n ++ rest := by
  induction bs generalizing n rest with
  | nil => cases h
  | cons b tl ih =>
    rw [readNat] at h
    split at h
    case isTrue hlt =>
      cases h
      rw [encodeNat_of_lt hlt, ← byte_eq_of_toNat rfl]
      rfl
    case isFalse hge =>
      split at h
      case h_2 k rest' htl =>
        cases h
        have hb := b.isLt
        have hlow : 128 + (b.toNat - 128 + 128 * (k + 1)) % 128 = b.toNat := by omega
        have hhigh : (b.toNat - 128 + 128 * (k + 1)) / 128 = k + 1 := by omega
        rw [encodeNat_of_ge (by omega), hlow, hhigh, ← byte_eq_of_toNat rfl, ih htl]
        rfl
      all_goals cases h

theorem codeOfInt_intOfCode (n : Nat) : codeOfInt (intOfCode n) = n := by
  rw [intOfCode]
  split
  · change 2 * (n / 2) = n
    omega
  · change 2 * (n / 2) + 1 = n
    omega

theorem readInt_eq_ok {bs rest : List Byte} {x : Int} (h : readInt bs = .ok (x, rest)) :
    bs = encodeNat (codeOfInt x) ++ rest := by
  obtain ⟨n, r, hn, h⟩ := andThen_eq_ok h
  cases h
  rw [codeOfInt_intOfCode, readNat_eq_ok hn]

theorem readArg_eq_ok {bs rest : List Byte} {x : Option Int} (h : readArg bs = .ok (x, rest)) :
    bs = encodeArg x ++ rest := by
  cases bs with
  | nil => cases h
  | cons b tl =>
    rw [readArg] at h
    split at h
    case h_1 hb => cases h; rw [byte_eq_of_toNat hb]; rfl
    case h_2 hb =>
      obtain ⟨y, r, hy, h⟩ := andThen_eq_ok h
      cases h
      rw [byte_eq_of_toNat hb, readInt_eq_ok hy]
      rfl
    case h_3 => cases h

/-! ## Messages -/

/-- The bytes `bs` are the message of the well-formed operation `i`, then `rest`. -/
def IsMessage (i : Instr) (bs rest : List Byte) : Prop := i.wellFormed = true ∧ bs = encode i ++ rest

section
variable {i : Instr} {lead : Byte} {bs rest : List Byte}

theorem isMessage_of_readWithChan {f : Chan → Instr} (hwf : ∀ c, (f c).wellFormed = true)
    (henc : ∀ c, encode (f c) = [lead, chanByte c]) (h : readWithChan f bs = .ok (i, rest)) :
    IsMessage i (lead :: bs) rest := by
  obtain ⟨c, r, hc, h⟩ := andThen_eq_ok h
  cases h
  exact ⟨hwf c, by rw [henc, readChan_eq_ok hc]; rfl⟩

theorem isMessage_of_readWithChanNat {f : Chan → Nat → Instr} (hwf : ∀ c v, (f c v).wellFormed = true)
    (henc : ∀ c v, encode (f c v) = lead :: chanByte c :: encodeNat v) (h : readWithChanNat f bs = .ok (i, rest)) :
    IsMessage i (lead :: bs) rest := by
  obtain ⟨c, r, hc, h⟩ := andThen_eq_ok h
  obtain ⟨v, r', hv, h⟩ := andThen_eq_ok h
  cases h
  exact ⟨hwf c v, by rw [henc, readChan_eq_ok hc, readNat_eq_ok hv]; rfl⟩

theorem isMessage_of_readWithNatByte {f : Nat → Byte → Instr} (hwf : ∀ a b, (f a b).wellFormed = true)
    (henc : ∀ a b, encode (f a b) = lead :: (encodeNat a ++ [b])) (h : readWithNatByte f bs = .ok (i, rest)) :
    IsMessage i (lead :: bs) rest := by
  obtain ⟨a, r, ha, h⟩ := andThen_eq_ok h
  obtain ⟨b, r', hb, h⟩ := andThen_eq_ok h
  cases h
  exact ⟨hwf a b, by rw [henc, readNat_eq_ok ha, readByte_eq_ok hb]; simp⟩

theorem isMessage_of_done {j : Instr} (hwf : j.wellFormed = true) (henc : encode j = [lead])
    (h : Read.done j bs = .ok (i, rest)) : IsMessage i (lead :: bs) rest := by
  cases h
  exact ⟨hwf, by rw [henc]; rfl⟩

theorem isMessage_of_readDisabled (h : readDisabled bs = .ok (i, rest)) : IsMessage i (0x40 :: bs) rest := by
  obtain ⟨ctl, r, hctl, h⟩ := andThen_eq_ok h
  split at h
  case isTrue => cases h
  case isFalse hdis =>
    obtain ⟨c, r', hc, h⟩ := andThen_eq_ok h
    cases h
    rw [Bool.not_eq_true] at hdis
    refine ⟨decodeControl_wellFormed ctl c, ?_⟩
    rw [readByte_eq_ok hctl, readChan_eq_ok hc, encode_decodeControl_disabled hdis]
    rfl

/-- A port message that is accepted is the message of the operation read. -/
theorem isMessage_of_decodePort (h : decodePort lead bs = .ok (i, rest)) : IsMessage i (lead :: bs) rest := by
  rw [decodePort] at h
  generalize hn : lead.toNat = n at h
  rw [byte_eq_of_toNat hn]
  clear hn
  split at h
  -- CH.IDLE (disabled)
  case h_1 => exact isMessage_of_readDisabled h
  -- SRC.IN
  case h_10 =>
    obtain ⟨k, r, hk, h⟩ := andThen_eq_ok h
    obtain ⟨x, r', hx, h⟩ := andThen_eq_ok h
    cases h
    exact ⟨rfl, by rw [readNat_eq_ok hk, readSample_eq_ok hx]; simp [encode]⟩
  -- the rows without operands
  case h_11 | h_12 | h_14 | h_16 | h_27 => exact isMessage_of_done rfl rfl h
  -- CLIP.S16
  case h_13 =>
    obtain ⟨side, r, hside, h⟩ := andThen_eq_ok h
    cases h
    exact ⟨rfl, by rw [readSide_eq_ok hside]; rfl⟩
  -- CFG.SET
  case h_15 =>
    obtain ⟨v, r, hv, h⟩ := andThen_eq_ok h
    obtain ⟨sep, r', hsep, h⟩ := andThen_eq_ok h
    cases h
    exact ⟨rfl, by rw [readArg_eq_ok hv, readArg_eq_ok hsep]; simp [encode]⟩
  -- the field writes
  case h_17 | h_18 | h_19 | h_20 | h_21 | h_22 =>
    exact isMessage_of_readWithChanNat (fun _ _ => rfl) (fun _ _ => rfl) h
  -- HW.BYTE and MEM.WR
  case h_23 | h_25 => exact isMessage_of_readWithNatByte (fun _ _ => rfl) (fun _ _ => rfl) h
  -- HR.FIELD
  case h_24 =>
    obtain ⟨c, r, hc, h⟩ := andThen_eq_ok h
    obtain ⟨f, r', hf, h⟩ := andThen_eq_ok h
    cases h
    exact ⟨rfl, by rw [readChan_eq_ok hc, readField_eq_ok hf]; rfl⟩
  -- RENDER
  case h_26 =>
    obtain ⟨k, r, hk, h⟩ := andThen_eq_ok h
    cases h
    exact ⟨rfl, by rw [readNat_eq_ok hk]; rfl⟩
  -- no row
  case h_28 => cases h
  -- the rows of a channel alone
  all_goals exact isMessage_of_readWithChan (fun _ => rfl) (fun _ => rfl) h

/-- An offset message that is accepted is the message of the row read. -/
theorem isMessage_of_offset (h7 : lead.getLsbD 7 = false) (h6 : lead.getLsbD 6 = false)
    (h : ((readByte bs).andThen fun b rest' =>
      Read.done (decodeOffset (lead.extractLsb' 0 4) (chanOfBits (lead.getLsbD 5) (lead.getLsbD 4)) b) rest')
        = .ok (i, rest)) :
    IsMessage i (lead :: bs) rest := by
  obtain ⟨b, r, hb, h⟩ := andThen_eq_ok h
  cases h
  refine ⟨decodeOffset_wellFormed .., ?_⟩
  rw [encode_decodeOffset, encodeOffset, offsetLead_eq h7 h6, readByte_eq_ok hb]
  rfl

end

/-- Settles O2: by the two leading bits of the lead byte, a control byte, a port row or an offset. -/
theorem decodedBytesAreTheMessage : Obligations.DecodedBytesAreTheMessage := by
  unfold Obligations.DecodedBytesAreTheMessage
  intro bs i rest h
  cases bs with
  | nil => cases h
  | cons lead tl =>
    rw [decode] at h
    split at h
    case isTrue h7 =>
      exact isMessage_of_readWithChan (decodeControl_wellFormed lead) (encode_decodeControl_enabled h7) h
    case isFalse h7 =>
      split at h
      case isTrue => exact isMessage_of_decodePort h
      case isFalse h6 =>
        exact isMessage_of_offset (Bool.not_eq_true _ ▸ h7) (Bool.not_eq_true _ ▸ h6) h

end Sys2Proof
end

section
/-! The control byte's classes (R94), words written out (R91, R94) and the serialised frames (R65). -/

namespace Sys2Proof.Machine

/-- Settles O3: each word evaluates to its row. -/
theorem sampleWordsDecode : Obligations.SampleWordsDecode := by
  unfold Obligations.SampleWordsDecode
  decide

/-- A PLAYING class reads as the fetch of its format (R94). -/
theorem playing_of_mask {ctl : Byte} {f : Format} (h : ctl &&& 0x8B = playPattern f) (c : Chan) :
    stopped ctl = false ∧ decodeControl ctl c = fetchRow f c ctl := by
  have hcls := (ctrlClass_play_iff ctl f).mpr h
  constructor
  · rw [Bool.eq_false_iff, ne_eq, stopped_iff_ctrlClass, hcls]
    simp
  · cases f <;> simp [decodeControl, hcls, fetchRow]

/-- Settles O4: each mask and match names one class (`ctrlClass_idleDisabled_iff`, `ctrlClass_idleStopped_iff`,
`ctrlClass_play_iff`), and the class gives the state and the row. -/
theorem controlByteClasses : Obligations.ControlByteClasses := by
  unfold Obligations.ControlByteClasses
  intro ctl c
  refine ⟨fun h => ?disabled, fun h => ?stopped, fun h => playing_of_mask (f := .lo4) h c,
    fun h => playing_of_mask (f := .hi4) h c, fun h => playing_of_mask (f := .b8) h c,
    fun h => playing_of_mask (f := .w16) h c⟩
  case disabled =>
    have hcls := (ctrlClass_idleDisabled_iff ctl).mpr h
    exact ⟨(stopped_iff_ctrlClass ctl).mpr (.inl hcls), by simp [decodeControl, hcls]⟩
  case stopped =>
    have hcls := (ctrlClass_idleStopped_iff ctl).mpr h
    exact ⟨(stopped_iff_ctrlClass ctl).mpr (.inr hcls), by simp [decodeControl, hcls]⟩

@[simp] theorem sampleBytes_length (order : ByteOrder) (x : Sample) : (sampleBytes order x).length = 2 := by
  cases order <;> rfl

theorem frameBytes_length (order : ByteOrder) (fs : List (Stereo Sample)) :
    (frameBytes order fs).length = 4 * fs.length := by
  induction fs with
  | nil => rfl
  | cons f rest ih =>
    simp only [frameBytes, List.length_append, sampleBytes_length, List.length_cons, ih]
    omega

/-- Settles O6: four bytes a frame, by induction on the frames; dividing by four gives the count back. -/
theorem framesTakeFourBytes : Obligations.FramesTakeFourBytes := by
  unfold Obligations.FramesTakeFourBytes
  intro order fs
  refine ⟨frameBytes_length order fs, ?_⟩
  rw [frameBytes_length, callbackRender, framesOfByteLength, Nat.mul_div_cancel_left _ (by decide)]

end Sys2Proof.Machine
end

section
/-! One step of the machine (logs 1 and 2): the waiting message first, then the block's own operation, then the next
burst. -/

namespace Sys2Proof.Machine

/-! ## The three cases of a step -/

/-- A waiting message that reads as an operation is run. -/
theorem step_of_message {s : State} {i : Instr} {rest : List Byte} (h : decode s.inbox = .ok (i, rest)) :
    step s = exec i (s.withInbox rest) := by
  cases hin : s.inbox with
  | nil => rw [hin] at h; cases h
  | cons b tl =>
    rw [hin] at h
    simp [step, hin, State.nextMessage, h]

/-- With no message waiting the block's own next operation is run, its step numbered. -/
theorem step_of_own {s : State} {i : Instr} (hin : s.inbox = []) (h : s.nextOwn = some i) :
    step s = exec i s.countOwn := by
  simp [step, hin, h]

/-- With nothing to do the next burst arrives. -/
theorem step_of_idle {s : State} (hin : s.inbox = []) (h : s.nextOwn = none) : step s = .next s.arrive := by
  simp [step, hin, h]

/-- Outside a pass, or with rendering disabled, the block has no operation of its own (R272, R311). -/
theorem nextOwn_eq_none {s : State} (h : s.framesLeft = 0 ∨ s.params.renderEnabled = false) : s.nextOwn = none :=
  if_pos h.symm

/-- With no burst to come nothing arrives. -/
theorem arrive_of_nil {s : State} (h : s.later = []) : s.arrive = s := by
  simp [State.arrive, h]

/-- A step that answers a next state ran an operation on the state without the message's bytes or with its step
numbered, or let a burst arrive. -/
theorem step_cases {s t : State} (h : step s = .next t) :
    (∃ i rest, exec i (s.withInbox rest) = .next t) ∨ (∃ i, exec i s.countOwn = .next t) ∨ t = s.arrive := by
  rw [step] at h
  split at h
  case h_1 =>
    split at h
    case h_1 i _ => exact .inr (.inl ⟨i, h⟩)
    case h_2 => cases h; exact .inr (.inr rfl)
  case h_2 =>
    split at h
    case h_1 i rest _ => exact .inl ⟨i, rest, h⟩
    case h_2 => cases h

/-- Settles O7. -/
theorem stepRunsTheWaitingMessage : Obligations.StepRunsTheWaitingMessage := by
  unfold Obligations.StepRunsTheWaitingMessage
  exact fun _ _ _ => step_of_message

/-- Settles O8: the own operation by `step_of_own`; without one the burst arrives, or nothing does. -/
theorem stepWithoutMessage : Obligations.StepWithoutMessage := by
  unfold Obligations.StepWithoutMessage
  intro s hin
  refine ⟨fun i hown => step_of_own hin hown, fun burst rest hown hlater => ?burst, fun hown hlater => ?nothing⟩
  case burst =>
    rw [step_of_idle hin hown, State.arrive]
    simp [hlater]
  case nothing => rw [step_of_idle hin hown, arrive_of_nil hlater]

/-- Settles O9: `nextOwn_eq_none`, and then nothing arrives either. -/
theorem blockWaitsForRender : Obligations.BlockWaitsForRender := by
  unfold Obligations.BlockWaitsForRender
  intro s h
  have hown := nextOwn_eq_none h
  exact ⟨hown, fun hin hlater => by rw [step_of_idle hin hown, arrive_of_nil hlater]⟩

/-- Settles O10: `exec_effect` names the next state of every operation. -/
theorem noOperationStops : Obligations.NoOperationStops := by
  unfold Obligations.NoOperationStops
  intro i s
  obtain ⟨t, ht, -⟩ := exec_effect i s
  exact ⟨t, ht⟩

end Sys2Proof.Machine
end

section
/-! The invariant of the machine holds at reset and every step keeps it (R41, R45, R46, R60, R76, R270). -/

namespace Sys2Proof.Machine

/-! ## One channel -/

section
variable {p : Params} {left : Nat} {ch : Channel}

theorem channelInv_initial (hone : 0 < accOne p) (r : RegBlock) : ChannelInv p left (Channel.initial r) :=
  ⟨fun _ => hone, Nat.zero_le _, Nat.zero_le _⟩

/-- A host write leaves the invariant: it speaks of no register. -/
theorem channelInv_of_regs (h : ChannelInv p left ch) (r : RegBlock) : ChannelInv p left { ch with regs := r } := h

/-- A STOPPED output sample zeroes the accumulator and emits one sample. -/
theorem channelInv_idle (hone : 0 < accOne p) (hlen : ch.out.length < left) : ChannelInv p left ch.idle :=
  ⟨fun _ => hone, Nat.zero_le _, by simpa [Channel.idle] using hlen⟩

/-- What `RC.ADD` adds is at most the largest rate times the ratio (R41). -/
theorem deltaN_le (p : Params) (rate : BitVec 24) : deltaN p rate ≤ 0xFFFFFF * ratioNum p :=
  Nat.mul_le_mul_right _ (by have := rate.isLt; omega)

theorem channelInv_rcAdd (hlow : ch.accn < accOne p) (hlen : ch.out.length < left) :
    ChannelInv p left (ch.rcAdd p) := by
  have hdelta := deltaN_le p ch.regs.rateIncrement
  refine ⟨nofun, ?_, by simpa [Channel.rcAdd] using hlen⟩
  change ch.accn + deltaN p ch.regs.rateIncrement ≤ _
  omega

theorem channelInv_begin (hone : 0 < accOne p) (h : ChannelInv p left ch) (hready : ch.phase = .ready)
    (hlen : ch.out.length < left) : ChannelInv p left (ch.begin p) := by
  rw [Channel.begin]
  split
  · exact channelInv_idle hone hlen
  · exact channelInv_rcAdd (h.1 hready) hlen

/-- A tick lowers the accumulator and leaves phase and samples. -/
theorem channelInv_tick (m : Memory) (h : ChannelInv p left ch) (hticking : ch.phase = .ticking) :
    ChannelInv p left (ch.tick p m) := by
  obtain ⟨-, hbound, hlen⟩ := h
  have hle := tick_accn_le p m ch
  refine ⟨by simp [hticking], by omega, by simpa using hlen⟩

theorem channelInv_emit (h : ChannelInv p left ch) (hticking : ch.phase = .ticking) (hlow : ch.accn < accOne p) :
    ChannelInv p left ch.emit := by
  obtain ⟨-, hbound, hlen⟩ := h
  refine ⟨fun _ => hlow, hbound, ?_⟩
  rw [if_pos hticking] at hlen
  simpa [Channel.emit] using hlen

theorem channelInv_finish (m : Memory) (hone : 0 < accOne p) (hlen : ch.out.length < left) :
    ChannelInv p left (ch.finish p m) := by
  have hlow := finish_accn_lt p m ch hone
  obtain ⟨-, hout, -⟩ := ticks_keep p m ch (ch.accn / accOne p)
  exact ⟨fun _ => hlow, by omega, by simpa [Channel.finish, Channel.emit, hout] using hlen⟩

theorem channelInv_step (m : Memory) (hone : 0 < accOne p) (hlen : ch.out.length < left) :
    ChannelInv p left (ch.step p m) := by
  rw [Channel.step]
  split
  · exact channelInv_idle hone hlen
  · exact channelInv_finish m hone hlen

/-- A frame takes one sample, and the pass shrinks by one frame at most. -/
theorem channelInv_outTail {left' : Nat} (h : ChannelInv p left ch) (hout : ch.out ≠ []) (hleft : left - 1 ≤ left') :
    ChannelInv p left' { ch with out := ch.out.tail } := by
  obtain ⟨hready, hbound, hlen⟩ := h
  have hpos := List.length_pos_of_ne_nil hout
  refine ⟨hready, hbound, ?_⟩
  change ch.out.tail.length + (if ch.phase = .ticking then 1 else 0) ≤ left'
  rw [List.length_tail]
  omega

/-- A longer pass owes no less. -/
theorem channelInv_mono {left' : Nat} (h : ChannelInv p left ch) (hleft : left ≤ left') : ChannelInv p left' ch :=
  ⟨h.1, h.2.1, h.2.2.trans hleft⟩

end

/-! ## The parts of a state -/

section
variable {s : State}

theorem accOne_pos_of_inv (h : StateInv s) : 0 < accOne s.params := by
  obtain ⟨⟨-, hrate, -⟩, -⟩ := h
  exact accOne_pos _ hrate

theorem channelInv_of_inv (h : StateInv s) (c : Chan) : ChannelInv s.params s.framesLeft (s.chan c) :=
  (PerChan.forall_iff _ _).1 h.2.1 c

/-- A step of one channel keeps the invariant when the channel's own part is kept. -/
theorem stateInv_setChan (h : StateInv s) (c : Chan) {ch : Channel} (hch : ChannelInv s.params s.framesLeft ch) :
    StateInv (s.setChan c ch) := by
  refine ⟨h.1, (PerChan.forall_iff _ _).2 fun d => ?_, h.2.2⟩
  by_cases hd : d = c
  · subst hd
    rwa [setChan_chans, PerChan.get_set_same]
  · rw [setChan_chans, PerChan.get_set_ne _ _ hd]
    exact channelInv_of_inv h d

theorem stateInv_setRegs (h : StateInv s) (c : Chan) (r : RegBlock) : StateInv (s.setRegs c r) :=
  stateInv_setChan h c (channelInv_of_regs (channelInv_of_inv h c) r)

theorem length_le_of_mem_modify_append {q : List Sample} {qs : List (List Sample)} {k left : Nat} {x : Sample}
    (hall : ∀ q ∈ qs, q.length ≤ left) (hk : ∀ q, qs[k]? = some q → q.length < left)
    (hq : q ∈ qs.modify k (· ++ [x])) : q.length ≤ left := by
  obtain ⟨j, hj⟩ := List.mem_iff_getElem?.1 hq
  rw [List.getElem?_modify] at hj
  obtain ⟨q', hq', rfl⟩ := Option.map_eq_some_iff.1 hj
  split
  case isTrue heq =>
    subst heq
    have := hk q' hq'
    simpa using this
  case isFalse => exact hall q' (List.mem_of_getElem? hq')

theorem stateInv_supply (h : StateInv s) {k : Nat} {q : List Sample} (x : Sample) (howes : OwesDraw s k q) :
    StateInv (s.supply k x) := by
  obtain ⟨hp, hch, hwf, hin, hv0, hv1, hs0, hs1, hgp, hgc, hlen, hqs, hreq, hnone, hen⟩ := h
  obtain ⟨-, hq, hlt⟩ := howes
  refine ⟨hp, hch, hwf, hin, hv0, hv1, hs0, hs1, hgp, hgc, ?_, fun q' hq' => ?_, hreq, hnone, hen⟩
  · rwa [supply_chipQueues, List.length_modify]
  · refine length_le_of_mem_modify_append hqs (fun q'' hq'' => ?_) hq'
    rw [hq] at hq''
    cases hq''
    exact hlt

/-- A frame moves the pass boundary as `passAdvance` does, since the sums, the clip and the output leave it (R270). -/
theorem frameStep_pass (s : State) :
    (s.framesLeft ≤ 1 ∧ s.requests = [] ∧ s.frameStep.framesLeft = 0 ∧ s.frameStep.requests = [])
    ∨ (s.framesLeft ≤ 1 ∧ ∃ n rest, s.requests = n :: rest ∧ s.frameStep.framesLeft = n ∧ s.frameStep.requests = rest)
    ∨ (1 < s.framesLeft ∧ s.frameStep.framesLeft = s.framesLeft - 1 ∧ s.frameStep.requests = s.requests) := by
  rw [State.frameStep]
  generalize hu : ((s.sumBuses.applyMatrix.clipSide .left).clipSide .right).outputFrame = u
  have hleft : s.framesLeft = u.framesLeft := by simp [← hu]
  have hreq : s.requests = u.requests := by simp [← hu]
  rw [hleft, hreq]
  rcases passAdvance_cases u with ⟨hle, hnil, heq⟩ | ⟨hle, n, rest, hcons, heq⟩ | ⟨hlt, heq⟩ <;> rw [heq]
  · exact .inl ⟨hle, hnil, rfl, hnil⟩
  · exact .inr (.inl ⟨hle, n, rest, hcons, rfl, rfl⟩)
  · exact .inr (.inr ⟨hlt, rfl, rfl⟩)

theorem stateInv_frameStep (h : StateInv s) (howes : OwesFrame s) : StateInv s.frameStep := by
  obtain ⟨hp, hch, hwf, hin, hv0, hv1, hs0, hs1, hgp, hgc, hlen, hqs, hreq, hnone, hen⟩ := h
  obtain ⟨hren, hpos, houts, hqne⟩ := howes
  obtain ⟨hreq', hnone', hleft⟩ : (∀ n ∈ s.frameStep.requests, 0 < n)
      ∧ (s.frameStep.framesLeft = 0 → s.frameStep.requests = []) ∧ s.framesLeft - 1 ≤ s.frameStep.framesLeft := by
    rcases frameStep_pass s with ⟨hle, -, hfl, hrq⟩ | ⟨hle, n, rest, hcons, hfl, hrq⟩ | ⟨hlt, hfl, hrq⟩ <;>
      rw [hfl, hrq]
    · exact ⟨nofun, fun _ => rfl, by omega⟩
    · rw [hcons] at hreq
      obtain ⟨hn, hrest⟩ := List.forall_mem_cons.1 hreq
      exact ⟨hrest, fun h0 => by omega, by omega⟩
    · exact ⟨hreq, fun h0 => by omega, by omega⟩
  refine ⟨by simpa using hp, (PerChan.forall_iff _ _).2 fun c => ?_, by simpa using hwf, by simpa using hin,
    by simpa using hv0, by simpa using hv1, by simpa using hs0, by simpa using hs1, by simpa using hgp,
    by simpa using hgc, ?_, ?_, hreq', hnone', by simp [hren]⟩
  · rw [frameStep_chans, PerChan.get_map, frameStep_params]
    exact channelInv_outTail ((PerChan.forall_iff _ _).1 hch c) ((PerChan.forall_iff _ _).1 houts c) hleft
  · rw [frameStep_chipQueues, List.length_map, frameStep_params, hlen]
  · rw [frameStep_chipQueues, List.forall_mem_map]
    intro q hq
    have := hqs q hq
    rw [List.length_tail]
    omega

/-- With the volume and the separation in range, deriving the gains gives the invariant. -/
theorem stateInv_updateGains (h : StateInv s) {v x : Int} (hv : 0 ≤ v ∧ v ≤ 100) (hx : -100 ≤ x ∧ x ≤ 100) :
    StateInv { s with masterVolume := v, stereoSeparation := x }.updateGains := by
  obtain ⟨hp, hch, hwf, hin, -, -, -, -, -, -, hrest⟩ := h
  exact ⟨hp, hch, hwf, hin, hv.1, hv.2, hx.1, hx.2, rfl, rfl, hrest⟩

theorem masterVolume_mem_of_inv (h : StateInv s) : 0 ≤ s.masterVolume ∧ s.masterVolume ≤ 100 := by
  obtain ⟨-, -, -, -, hv0, hv1, -⟩ := h
  exact ⟨hv0, hv1⟩

theorem stereoSeparation_mem_of_inv (h : StateInv s) : -100 ≤ s.stereoSeparation ∧ s.stereoSeparation ≤ 100 := by
  obtain ⟨-, -, -, -, -, -, hs0, hs1, -⟩ := h
  exact ⟨hs0, hs1⟩

theorem stateInv_configure (h : StateInv s) (v x : Option Int) : StateInv (s.storeConfig v x).updateGains := by
  refine stateInv_updateGains h (v := (s.storeConfig v x).masterVolume)
    (x := (s.storeConfig v x).stereoSeparation) ?_ ?_
  · cases v with
    | none => simpa [State.storeConfig] using masterVolume_mem_of_inv h
    | some v => exact clamp_mem v (by decide)
  · cases x with
    | none => simpa [State.storeConfig] using stereoSeparation_mem_of_inv h
    | some x => exact clamp_mem x (by decide)

theorem stateInv_hostStore (h : StateInv s) (a : Nat) (b : Byte) : StateInv (s.hostStore a b) := by
  rw [State.hostStore]
  split
  case isFalse => exact h
  case isTrue ha =>
    obtain ⟨hp, hch, hwf, hin, hrest⟩ := h
    refine ⟨hp, hch, write_wf hwf a b, fun cell hcell => ?_, hrest⟩
    rcases mem_write hcell with hcell | hcell
    · exact hcell ▸ ha
    · exact hin cell hcell

/-- Opening a pass of a positive number of frames, when none runs and rendering is enabled. -/
theorem stateInv_requestFrames (h : StateInv s) (n : Nat) : StateInv (s.requestFrames n) := by
  rw [State.requestFrames]
  split
  case isTrue => exact h
  case isFalse hren =>
    rw [not_or, Bool.not_eq_false] at hren
    obtain ⟨hp, hch, hwf, hin, hv0, hv1, hs0, hs1, hgp, hgc, hlen, hqs, hreq, hnone, hen⟩ := h
    split
    case isTrue hidle =>
      refine ⟨hp, (PerChan.forall_iff _ _).2 fun c => ?_, hwf, hin, hv0, hv1, hs0, hs1, hgp, hgc, hlen, fun q hq => ?_,
        hreq, fun h0 => absurd h0 hren.2, fun hdis => absurd (hren.1.symm.trans hdis) (by decide)⟩
      · exact channelInv_mono ((PerChan.forall_iff _ _).1 hch c) (by omega)
      · exact (hqs q hq).trans (by omega)
    case isFalse hrun =>
      refine ⟨hp, hch, hwf, hin, hv0, hv1, hs0, hs1, hgp, hgc, hlen, hqs, ?_, fun h0 => absurd h0 hrun, hen⟩
      rw [List.forall_mem_append, List.forall_mem_singleton]
      exact ⟨hreq, by omega⟩

/-- Every initial state with parameters in range meets the invariant (R310). -/
theorem stateInv_initial {p : Params} (hp : ParamsWf p) : StateInv (State.initial p) := by
  obtain ⟨-, hrate, -, hv0, hv1, hs0, hs1, -⟩ := id hp
  refine ⟨hp, (PerChan.forall_iff _ _).2 fun c => ?_, reset_mem_wf, nofun, hv0, hv1, hs0, hs1, rfl, rfl,
    List.length_map _, ?_, nofun, fun _ => rfl, fun _ => rfl⟩
  · rw [State.initial, PerChan.get_map]
    exact channelInv_initial (accOne_pos p hrate) _
  · rw [State.initial, List.forall_mem_map]
    exact fun _ _ => Nat.zero_le _

theorem stateInv_restart (h : StateInv s) : StateInv s.restart := by
  obtain ⟨hp, hch, -, -, hrest⟩ := stateInv_initial h.1
  obtain ⟨-, -, hwf, hin, -⟩ := h
  exact ⟨hp, hch, hwf, hin, hrest⟩

/-! ## Every operation and every step -/

/-- Every effect of an operation keeps the invariant. -/
theorem stateInv_of_effect {i : Instr} {t : State} (h : StateInv s) (he : Effect s i t) : StateInv t := by
  have hone := accOne_pos_of_inv h
  cases he with
  | nothing => exact h
  | sampleBegun _ c _ howes =>
    exact stateInv_setChan h c (channelInv_begin hone (channelInv_of_inv h c) howes.2.1 howes.2.2)
  | sampleMade c howes => exact stateInv_setChan h c (channelInv_step s.mem hone howes.2.2)
  | ticked _ c _ _ howes => exact stateInv_setChan h c (channelInv_tick s.mem (channelInv_of_inv h c) howes.2.1)
  | emitted c howes => exact stateInv_setChan h c (channelInv_emit (channelInv_of_inv h c) howes.2.1 howes.2.2)
  | supplied k x q howes => exact stateInv_supply h x howes
  | summed | mixed | fieldRead => exact h
  | clipped side => cases side <;> exact h
  | frameMade howes => exact stateInv_frameStep h howes
  | configured v x => exact stateInv_configure h v x
  | gainsUpdated => exact stateInv_updateGains h (masterVolume_mem_of_inv h) (stereoSeparation_mem_of_inv h)
  | fieldWritten | byteWritten => exact stateInv_setRegs h _ _
  | stored a b => exact stateInv_hostStore h a b
  | requested n => exact stateInv_requestFrames h n
  | restarted => exact stateInv_restart h

theorem stateInv_of_exec {i : Instr} {t : State} (h : StateInv s) (hexec : exec i s = .next t) : StateInv t :=
  stateInv_of_effect h (effect_of_exec hexec)

theorem stateInv_arrive (h : StateInv s) : StateInv s.arrive := by
  rw [State.arrive]
  split <;> exact h

end

/-- Settles O12: a step runs an operation, on a state that differs in the model's own fields only, or lets a burst
arrive; every effect of an operation keeps the invariant (`stateInv_of_effect`). -/
theorem stepKeepsInvariant : Obligations.StepKeepsInvariant := by
  unfold Obligations.StepKeepsInvariant
  intro s t h hstep
  rcases step_cases hstep with ⟨i, rest, hexec⟩ | ⟨i, hexec⟩ | rfl
  · exact stateInv_of_exec (s := s.withInbox rest) h hexec
  · exact stateInv_of_exec (s := s.countOwn) h hexec
  · exact stateInv_arrive h

/-- Settles O11: reset is an initial state, and its parameters are in range. -/
theorem initialStatesMeetInvariant : Obligations.InitialStatesMeetInvariant := by
  unfold Obligations.InitialStatesMeetInvariant
  exact ⟨stateInv_initial (by decide), fun _ => stateInv_initial⟩

end Sys2Proof.Machine
end

section
/-! Who may write what (R10, R22, R45, R60, R129, R159, R265): the effects of an operation, by the agent that performs
it. -/

namespace Sys2Proof.Machine

/-! ## The channel agents -/

section
variable {s t : State} {i : Instr} {c : Chan}

theorem channelOf_fieldWrite (c : Chan) (f : RegField) (v : Nat) : channelOf (fieldWrite c f v) = none := by
  cases f <;> rfl

/-- What an operation of a channel's agent can do: one of the three atomic steps, the whole output sample, or nothing
(R110). -/
theorem effect_of_channel (he : Effect s i t) (hc : channelOf i = some c) :
    t = s
    ∨ (OwesSample s c ∧ t = s.beginChan c)
    ∨ (i = .chStep c ∧ OwesSample s c ∧ t = s.setChan c ((s.chan c).step s.params s.mem))
    ∨ (OwesTick s c ∧ i ≠ .chStep c ∧ t = s.tickChan c)
    ∨ (OwesEmit s c ∧ t = s.setChan c (s.chan c).emit) := by
  cases he with
  | nothing => exact .inl rfl
  | sampleBegun _ d hd howes =>
    cases hd.symm.trans hc
    exact .inr (.inl ⟨howes, rfl⟩)
  | sampleMade d howes =>
    cases hc
    exact .inr (.inr (.inl ⟨rfl, howes, rfl⟩))
  | ticked _ d hd hne howes =>
    cases hd.symm.trans hc
    exact .inr (.inr (.inr (.inl ⟨howes, hne, rfl⟩)))
  | emitted d howes =>
    cases hc
    exact .inr (.inr (.inr (.inr ⟨howes, rfl⟩)))
  | fieldWritten d f v => cases (channelOf_fieldWrite d f v).symm.trans hc
  | byteWritten _ d off b _ hd => cases hd.symm.trans hc
  | _ => cases hc

/-- What an operation of another agent than `c`'s, and not reset, can do to channel `c`: nothing, a host write of a
field or of a byte, or the use of a sample by a frame. -/
theorem chan_of_effect (he : Effect s i t) (hc : channelOf i ≠ some c) (hreset : i ≠ .reset) :
    t.chan c = s.chan c
    ∨ (∃ f v, i = fieldWrite c f v ∧ t.chan c = { s.chan c with regs := writeField (s.chan c).regs f v })
    ∨ (∃ off b, byteWriteTarget s.params i = some (c, off)
        ∧ t.chan c = { s.chan c with regs := writeByteAt (s.chan c).regs off b })
    ∨ (i = .frameOut ∧ t.chan c = { s.chan c with out := (s.chan c).out.tail }) := by
  cases he with
  | nothing => exact .inl rfl
  | sampleBegun _ d hd | ticked _ d hd => exact .inl (chan_setChan_ne _ _ fun h => hc (h ▸ hd))
  | sampleMade d | emitted d => exact .inl (chan_setChan_ne _ _ fun h => hc (h ▸ rfl))
  | frameMade => exact .inr (.inr (.inr ⟨rfl, by rw [State.chan, frameStep_chans, PerChan.get_map]; rfl⟩))
  | fieldWritten d f v =>
    by_cases hd : c = d
    · subst hd
      exact .inr (.inl ⟨f, v, rfl, chan_setRegs_same ..⟩)
    · exact .inl (chan_setChan_ne _ _ hd)
  | byteWritten _ d off b htarget =>
    by_cases hd : c = d
    · subst hd
      exact .inr (.inr (.inl ⟨off, b, htarget, chan_setRegs_same ..⟩))
    · exact .inl (chan_setChan_ne _ _ hd)
  | restarted => exact absurd rfl hreset
  | clipped side => exact .inl (by rw [State.chan, clipSide_chans]; rfl)
  | stored a b => exact .inl (by rw [State.chan, hostStore_chans]; rfl)
  | requested n => exact .inl (by rw [State.chan, requestFrames_chans]; rfl)
  | _ => exact .inl rfl

end

/-! ## The registers of a channel -/

section
variable (p : Params) (m : Memory) (ch : Channel)

/-- What the engine may change of its channel's registers: the pointer, and `control` by setting bit 3 (R26, R32). -/
def RegsFrame (r r' : RegBlock) : Prop :=
  r'.startAddress = r.startAddress ∧ r'.rateIncrement = r.rateIncrement ∧ r'.endAddress = r.endAddress
  ∧ r'.volume = r.volume ∧ (r'.control = r.control ∨ r'.control = withStp r.control)

theorem regsFrame_refl (r : RegBlock) : RegsFrame r r := ⟨rfl, rfl, rfl, rfl, .inl rfl⟩

@[simp] theorem begin_regs : (ch.begin p).regs = ch.regs := by
  rw [Channel.begin]
  split <;> rfl

theorem regsFrame_tick : RegsFrame ch.regs (ch.tick p m).regs := by simp [RegsFrame, tick_control]

theorem regsFrame_step : RegsFrame ch.regs (ch.step p m).regs := by
  rw [Channel.step]
  split
  · exact regsFrame_refl _
  · obtain ⟨-, -, hstart, hrate, hend, hvol, hctl⟩ := ticks_keep p m (ch.rcAdd p) ((ch.rcAdd p).accn / accOne p)
    exact ⟨hstart, hrate, hend, hvol, hctl⟩

/-- A tick leaves the pointer at the advanced address, or loads it from `startAddress` (R151, R152, R176). -/
theorem tick_currentAddress :
    (ch.tick p m).regs.currentAddress = advance (formatOf ch.regs.control) ch.regs.currentAddress
    ∨ (ch.tick p m).regs.currentAddress = ch.regs.startAddress := by
  rw [Channel.tick, Channel.fetch]
  rcases endCompare_cases _ _ with ⟨-, -, h⟩ | ⟨-, -, h⟩ | ⟨-, h⟩ <;> rw [h]
  · exact .inr rfl
  · exact .inl rfl
  · exact .inl rfl

variable {m}

theorem writeField_currentAddress {f : RegField} (h : f ≠ .currentAddress) (r : RegBlock) (v : Nat) :
    (writeField r f v).currentAddress = r.currentAddress := by
  cases f
  case currentAddress => exact absurd rfl h
  all_goals rfl

theorem writeField_control {f : RegField} (h : f ≠ .control) (r : RegBlock) (v : Nat) :
    (writeField r f v).control = r.control := by
  cases f
  case control => exact absurd rfl h
  all_goals rfl

theorem writeByteAt_currentAddress {off : Nat} (h : off ∉ fieldOffsets .currentAddress) (r : RegBlock) (b : Byte) :
    (writeByteAt r off b).currentAddress = r.currentAddress := by
  unfold writeByteAt
  split <;> simp_all [fieldOffsets]

theorem writeByteAt_control {off : Nat} (h : off ∉ fieldOffsets .control) (r : RegBlock) (b : Byte) :
    (writeByteAt r off b).control = r.control := by
  unfold writeByteAt
  split <;> simp_all [fieldOffsets]

end

section
variable {s t : State} {i : Instr} {c : Chan}

/-- Another agent than `c`'s, and not reset, changes a register of `c` only by a host write of it. -/
theorem register_of_effect {α : Type} {f : RegField} {reg : RegBlock → α}
    (hfield : ∀ {g : RegField}, g ≠ f → ∀ r v, reg (writeField r g v) = reg r)
    (hbyte : ∀ {off : Nat}, off ∉ fieldOffsets f → ∀ r b, reg (writeByteAt r off b) = reg r)
    (he : Effect s i t) (hc : channelOf i ≠ some c) (hreset : i ≠ .reset) :
    reg (t.chan c).regs = reg (s.chan c).regs ∨ hostWrites s.params i c f := by
  rcases chan_of_effect he hc hreset with h | ⟨g, v, rfl, h⟩ | ⟨off, b, htarget, h⟩ | ⟨-, h⟩ <;> rw [h]
  · exact .inl rfl
  · by_cases hg : g = f
    · exact .inr (.inl ⟨v, hg ▸ rfl⟩)
    · exact .inl (hfield hg ..)
  · by_cases hoff : off ∈ fieldOffsets f
    · exact .inr (.inr ⟨off, hoff, htarget⟩)
    · exact .inl (hbyte hoff ..)
  · exact .inl rfl

/-- An operation of a channel's agent replaces that channel, keeping the register frame. -/
theorem setChan_of_channel (he : Effect s i t) (hc : channelOf i = some c) :
    ∃ ch, t = s.setChan c ch ∧ RegsFrame (s.chan c).regs ch.regs := by
  rcases effect_of_channel he hc with rfl | ⟨-, rfl⟩ | ⟨-, -, rfl⟩ | ⟨-, -, rfl⟩ | ⟨-, rfl⟩
  · exact ⟨_, (setChan_chan_self ..).symm, regsFrame_refl _⟩
  · exact ⟨_, rfl, by rw [begin_regs]; exact regsFrame_refl _⟩
  · exact ⟨_, rfl, regsFrame_step ..⟩
  · exact ⟨_, rfl, regsFrame_tick ..⟩
  · exact ⟨_, rfl, regsFrame_refl _⟩

end

/-- Settles O29: `setChan_of_channel` gives the replaced channel and its register frame; memory stays. -/
theorem channelOperationFrame : Obligations.ChannelOperationFrame := by
  unfold Obligations.ChannelOperationFrame
  intro i c s t hc hexec
  obtain ⟨ch, rfl, hstart, hrate, hend, hvol, hctl⟩ := setChan_of_channel (effect_of_exec hexec) hc
  rw [chan_setChan_same]
  exact ⟨setChan_onlyChannel .., hstart, hrate, hend, hvol, hctl, fun _ => rfl⟩

/-- Settles O31: of the channel's own steps only the tick moves the pointer (`tick_currentAddress`); of the others only
a host write of the field and reset. -/
theorem pointerChangesInThreeWays : Obligations.PointerChangesInThreeWays := by
  unfold Obligations.PointerChangesInThreeWays
  intro i s t c hexec hstep
  have he := effect_of_exec hexec
  by_cases hc : channelOf i = some c
  · rcases effect_of_channel he hc with rfl | ⟨-, rfl⟩ | ⟨hi, -⟩ | ⟨-, -, rfl⟩ | ⟨-, rfl⟩
    · exact .inl rfl
    · exact .inl (by simp [State.beginChan])
    · exact absurd hi hstep
    · refine .inr (.inl ⟨hc, ?_⟩)
      rw [State.tickChan, chan_setChan_same]
      refine (tick_currentAddress ..).imp_left fun h => ?_
      rw [h, advance_toNat]
    · exact .inl (by simp [Channel.emit])
  · by_cases hreset : i = .reset
    · exact .inr (.inr (.inr hreset))
    · have hother := register_of_effect writeField_currentAddress writeByteAt_currentAddress he hc hreset
      exact hother.imp_right fun h => .inr (.inl h)

/-- Settles O32: the channel's own engine keeps `control` or sets bit 3 (`setChan_of_channel`); of the others only a
host write of the field and reset change it. -/
theorem controlWriters : Obligations.ControlWriters := by
  unfold Obligations.ControlWriters
  intro i s t c hexec
  have he := effect_of_exec hexec
  by_cases hc : channelOf i = some c
  · obtain ⟨ch, rfl, -, -, -, -, hctl⟩ := setChan_of_channel he hc
    rw [chan_setChan_same]
    exact hctl.imp_right fun h => .inl ⟨hc, h⟩
  · by_cases hreset : i = .reset
    · exact .inr (.inr (.inr hreset))
    · have hother := register_of_effect writeField_control writeByteAt_control he hc hreset
      exact hother.imp_right fun h => .inr (.inl h)

/-! ## The rest of the state -/

section
variable {s t : State} {i : Instr}

theorem frames_of_effect (he : Effect s i t) (hframe : i ≠ .frameOut) (hreset : i ≠ .reset) : t.frames = s.frames := by
  cases he with
  | frameMade => exact absurd rfl hframe
  | restarted => exact absurd rfl hreset
  | clipped | stored | requested => simp
  | _ => rfl

theorem reads_of_effect (he : Effect s i t) (hread : ∀ c f, i ≠ .hrField c f) (hreset : i ≠ .reset) :
    t.reads = s.reads := by
  cases he with
  | fieldRead c f => exact absurd rfl (hread c f)
  | restarted => exact absurd rfl hreset
  | clipped | stored | requested | frameMade => simp
  | _ => rfl

end

/-- Settles O33: the other agents leave the engine's private state (`chan_of_effect`), the frames and the read-backs. -/
theorem privateStateWriters : Obligations.PrivateStateWriters := by
  unfold Obligations.PrivateStateWriters
  intro i s t hexec hreset
  have he := effect_of_exec hexec
  refine ⟨fun c hc => ?_, fun hframe => frames_of_effect he hframe hreset, fun hread => reads_of_effect he hread hreset⟩
  rcases chan_of_effect he hc hreset with h | ⟨f, v, -, h⟩ | ⟨off, b, -, h⟩ | ⟨-, h⟩ <;> rw [h]
  all_goals exact ⟨rfl, rfl, rfl⟩

/-- Settles O48: by the effects of an operation, of which only those of `CFG.SET`, `GAIN.UPDATE` and reset write the
configuration. -/
theorem configurationWriters : Obligations.ConfigurationWriters := by
  unfold Obligations.ConfigurationWriters
  intro i s t hexec hcfg hgain hreset
  cases effect_of_exec hexec with
  | configured v x => exact absurd rfl (hcfg v x)
  | gainsUpdated => exact absurd rfl hgain
  | restarted => exact absurd rfl hreset
  | clipped | stored | requested | frameMade => simp
  | _ => exact ⟨rfl, rfl, rfl, rfl⟩

/-- Settles O56: by the effects of an operation, of which only that of `MEM.WR` writes the array. -/
theorem onlyTheHostWritesMemory : Obligations.OnlyTheHostWritesMemory := by
  unfold Obligations.OnlyTheHostWritesMemory
  intro i s t hexec hstore a
  cases effect_of_exec hexec with
  | stored a b => exact absurd rfl (hstore a b)
  | clipped | requested | frameMade => simp
  | _ => rfl

/-- Settles O14: by the effects of an operation, none of which writes a parameter or the model's own fields. -/
theorem parametersAreConstant : Obligations.ParametersAreConstant := by
  unfold Obligations.ParametersAreConstant
  intro i s t hexec
  cases effect_of_exec hexec with
  | clipped | stored | requested | frameMade => simp
  | _ => exact ⟨rfl, rfl, rfl, rfl⟩

/-- Settles O13: `RESET` is `restart`, whose channels are `Channel.initial` of their `REG_RESET`. -/
theorem resetEstablishesInitialState : Obligations.ResetEstablishesInitialState := by
  unfold Obligations.ResetEstablishesInitialState
  intro s
  exact ⟨s.restart, rfl, restart_chan s, rfl, rfl, rfl, rfl, rfl, rfl, rfl, rfl, rfl, rfl, rfl, rfl, fun _ => rfl⟩

end Sys2Proof.Machine
end

section
/-! When an operation is taken (R75, R94, R141, R272, R292; logs 3 and 4): each channel operation depends on its own
channel only, and one that is not enabled leaves the state. -/

namespace Sys2Proof.Machine

/-! ## Operations of two channels -/

/-- The meaning touches channel `c` alone, and of the state reads that channel, the parameters, the memory and the
frames the pass still owes. -/
def ActsOn (c : Chan) (meaning : State → Host.Outcome State Fault Refusal) : Prop :=
  ∃ f : Params → Memory → Nat → Channel → Channel,
    ∀ s, meaning s = .next (s.setChan c (f s.params s.mem s.framesLeft (s.chan c)))

section
variable {c d : Chan}

/-- A step of one channel under a condition on that channel acts on that channel. -/
theorem actsOn_of_when {meaning : State → Host.Outcome State Fault Refusal} (enabled : Params → Nat → Channel → Bool)
    (next : Params → Memory → Channel → Channel)
    (h : ∀ s, meaning s
      = s.when (enabled s.params s.framesLeft (s.chan c)) (s.setChan c (next s.params s.mem (s.chan c)))) :
    ActsOn c meaning := by
  refine ⟨fun p m left ch => if enabled p left ch then next p m ch else ch, fun s => ?_⟩
  rw [h]
  beta_reduce
  cases enabled s.params s.framesLeft (s.chan c)
  · simp
  · rfl

/-- The enabling condition of `CH.BEGIN` as one of the channel (`State.canBegin`). -/
def Channel.mayBegin (p : Params) (left : Nat) (ch : Channel) : Bool :=
  p.renderEnabled && decide (ch.phase = .ready) && decide (ch.out.length < left)

/-- The enabling condition of `RC.TICK` as one of the channel (`State.canTick`). -/
def Channel.mayTick (p : Params) (ch : Channel) : Bool :=
  p.renderEnabled && decide (ch.phase = .ticking) && decide (accOne p ≤ ch.accn)

/-- The enabling condition of `CH.EMIT` as one of the channel (`State.canEmit`). -/
def Channel.mayEmit (p : Params) (ch : Channel) : Bool :=
  p.renderEnabled && decide (ch.phase = .ticking) && decide (ch.accn < accOne p)

/-- A fetch row acts on its channel. -/
theorem actsOn_fetchAs (fmt : Format) (ctl : Byte) : ActsOn c fun s => s.fetchAs c fmt ctl :=
  actsOn_of_when
    (fun p _ ch => ch.mayTick p && decide (formatOf ch.regs.control = fmt)
      && decide (loopBit ch.regs.control = loopBit ctl))
    (fun p m ch => ch.tick p m) fun _ => rfl

/-- Every operation of a channel's agent acts on that channel (R32, R75). -/
theorem actsOn_of_channelOf {i : Instr} (h : channelOf i = some c) : ActsOn c (exec i) := by
  cases i with
  | chIdleDisabled d ctl =>
    cases h
    exact actsOn_of_when (fun p left ch => ch.mayBegin p left && decide (ctrlClass ch.regs.control = .idleDisabled))
      (fun p _ ch => ch.begin p) fun _ => rfl
  | chIdleStopped d ctl =>
    cases h
    exact actsOn_of_when (fun p left ch => ch.mayBegin p left && decide (ctrlClass ch.regs.control = .idleStopped))
      (fun p _ ch => ch.begin p) fun _ => rfl
  | fetchLo4 d ctl => cases h; exact actsOn_fetchAs .lo4 ctl
  | fetchHi4 d ctl => cases h; exact actsOn_fetchAs .hi4 ctl
  | fetchB8 d ctl => cases h; exact actsOn_fetchAs .b8 ctl
  | fetchW16 d ctl => cases h; exact actsOn_fetchAs .w16 ctl
  | chStep d =>
    cases h
    exact actsOn_of_when (fun p left ch => ch.mayBegin p left) (fun p m ch => ch.step p m) fun _ => rfl
  | chBegin d =>
    cases h
    exact actsOn_of_when (fun p left ch => ch.mayBegin p left) (fun p _ ch => ch.begin p) fun _ => rfl
  | rcAdd d =>
    cases h
    exact actsOn_of_when (fun p left ch => ch.mayBegin p left && !stopped ch.regs.control)
      (fun p _ ch => ch.begin p) fun _ => rfl
  | rcTick d | volScale d =>
    cases h
    exact actsOn_of_when (fun p _ ch => ch.mayTick p) (fun p m ch => ch.tick p m) fun _ => rfl
  | chEmit d =>
    cases h
    exact actsOn_of_when (fun p _ ch => ch.mayEmit p) (fun _ _ ch => ch.emit) fun _ => rfl
  | endLoop d =>
    cases h
    exact actsOn_of_when (fun p _ ch => ch.mayTick p && decide (ch.endsIn = some true)) (fun p m ch => ch.tick p m)
      fun _ => rfl
  | endStop d =>
    cases h
    exact actsOn_of_when (fun p _ ch => ch.mayTick p && decide (ch.endsIn = some false)) (fun p m ch => ch.tick p m)
      fun _ => rfl
  | _ => cases h

/-- Replacing two channels, in either order. -/
theorem setChan_comm (s : State) (hne : d ≠ c) (ch ch' : Channel) :
    (s.setChan c ch).setChan d ch' = (s.setChan d ch').setChan c ch := by
  simp only [State.setChan, PerChan.set_set_comm _ _ _ hne]

end

/-- Settles O30: each of the two acts on its own channel (`actsOn_of_channelOf`), so what it answers there does not see
the other, and the two replacements commute. -/
theorem channelsCommute : Obligations.ChannelsCommute := by
  unfold Obligations.ChannelsCommute
  intro i j c d s hi hj hne
  obtain ⟨f, hf⟩ := actsOn_of_channelOf hi
  obtain ⟨g, hg⟩ := actsOn_of_channelOf hj
  rw [execAll_cons_of_next (hf s), execAll_cons_of_next (hg _), execAll_cons_of_next (hg s),
    execAll_cons_of_next (hf _)]
  simp only [execAll_nil, chan_setChan_ne _ _ hne, chan_setChan_ne _ _ hne.symm, setChan_params, setChan_mem,
    setChan_framesLeft, setChan_comm s hne.symm]

/-! ## Operations that are not enabled -/

section
variable (s : State) {u : State} {e e' : Bool}

theorem when_and_of_ne_left (h : e ≠ true) : s.when (e && e') u = .next s :=
  when_of_ne s u fun he => h (Bool.and_eq_true_iff.1 he).1

theorem when_and_of_ne_right (h : e' ≠ true) : s.when (e && e') u = .next s :=
  when_of_ne s u fun he => h (Bool.and_eq_true_iff.1 he).2

end

/-- The next fetch of the channel meets its end address, on numbers (R150). -/
abbrev Channel.MeetsEnd (ch : Channel) : Prop :=
  (ch.regs.currentAddress.toNat + stepBytes (formatOf ch.regs.control)) % 16777216 % 65536 = ch.regs.endAddress.toNat

theorem endMatch_iff_meetsEnd (ch : Channel) :
    endMatch (advance (formatOf ch.regs.control) ch.regs.currentAddress) ch.regs.endAddress = true ↔ ch.MeetsEnd :=
  endMatch_advance_iff ..

/-- What the next fetch ends in (R150 to R152). -/
theorem endsIn_eq_some_iff (ch : Channel) (loop : Bool) :
    ch.endsIn = some loop ↔ ch.MeetsEnd ∧ ch.regs.control.getLsbD 6 = loop := by
  rw [← endMatch_iff_meetsEnd, Channel.endsIn]
  split
  case isTrue hend => exact Option.some_inj.trans (and_iff_right hend).symm
  case isFalse hend => exact iff_of_false nofun fun h => hend h.1

/-- A fetch row is the `RC.TICK` of its format and loop bit (R110, log 4). -/
theorem exec_fetchRow (s : State) (c : Chan) (fmt : Format) (ctl : Byte) :
    exec (fetchRow fmt c ctl) s = s.fetchAs c fmt ctl := by
  cases fmt <;> rfl

section
variable {s : State} {c : Chan}

theorem exec_begin_of_not_owes (h : ¬ OwesSample s c) (ctl : Byte) :
    ∀ i ∈ [Instr.chBegin c, .chStep c, .rcAdd c, .chIdleDisabled c ctl, .chIdleStopped c ctl], exec i s = .next s := by
  have hcan : s.canBegin c ≠ true := mt (canBegin_iff s c).1 h
  simp only [List.mem_cons, List.not_mem_nil, or_false, forall_eq_or_imp, forall_eq]
  exact ⟨when_of_ne s _ hcan, when_of_ne s _ hcan, when_and_of_ne_left s hcan, when_and_of_ne_left s hcan,
    when_and_of_ne_left s hcan⟩

theorem exec_tick_of_not_owes (h : ¬ OwesTick s c) (fmt : Format) (ctl : Byte) :
    ∀ i ∈ [Instr.rcTick c, .volScale c, .endLoop c, .endStop c, fetchRow fmt c ctl], exec i s = .next s := by
  have hcan : s.canTick c ≠ true := mt (canTick_iff s c).1 h
  simp only [List.mem_cons, List.not_mem_nil, or_false, forall_eq_or_imp, forall_eq, exec_fetchRow]
  refine ⟨when_of_ne s _ hcan, when_of_ne s _ hcan, when_and_of_ne_left s hcan, when_and_of_ne_left s hcan, ?_⟩
  exact when_and_of_ne_left s fun he => hcan (Bool.and_eq_true_iff.1 he).1

theorem exec_chEmit_of_not_owes (h : ¬ OwesEmit s c) : exec (.chEmit c) s = .next s :=
  when_of_ne s _ (mt (canEmit_iff s c).1 h)

theorem exec_srcIn_of_not_owes {k : Nat} (h : ∀ q, ¬ OwesDraw s k q) (x : Sample) : exec (.srcIn k x) s = .next s :=
  when_of_ne s _ (mt (canDraw_iff s k).1 (not_exists.2 h))

theorem exec_frame_of_not_owes (h : ¬ OwesFrame s) : ∀ i ∈ [Instr.mixSum, .frameOut], exec i s = .next s := by
  have hready : s.frameReady ≠ true := mt (frameReady_iff s).1 h
  simp only [List.mem_cons, List.not_mem_nil, or_false, forall_eq_or_imp, forall_eq]
  exact ⟨when_of_ne s _ hready, when_of_ne s _ hready⟩

/-- A fetch row of another format or loop bit than the live ones is not enabled. -/
theorem exec_fetchRow_of_ne {fmt : Format} {ctl : Byte}
    (h : formatOf (s.chan c).regs.control ≠ fmt ∨ (s.chan c).regs.control.getLsbD 6 ≠ ctl.getLsbD 6) :
    exec (fetchRow fmt c ctl) s = .next s := by
  rw [exec_fetchRow]
  rcases h with hfmt | hloop
  · exact when_and_of_ne_left s fun he => hfmt (of_decide_eq_true (Bool.and_eq_true_iff.1 he).2)
  · exact when_and_of_ne_right s fun he => hloop (of_decide_eq_true he)

theorem exec_endLoop_of_ne (h : (s.chan c).endsIn ≠ some true) : exec (.endLoop c) s = .next s :=
  when_and_of_ne_right s fun he => h (of_decide_eq_true he)

theorem exec_endStop_of_ne (h : (s.chan c).endsIn ≠ some false) : exec (.endStop c) s = .next s :=
  when_and_of_ne_right s fun he => h (of_decide_eq_true he)

end

/-- Settles O18: each operation tests its condition (`canBegin_iff` to `canDraw_iff`) and those of its part of the step;
where one fails the state stays (`when_of_ne`). -/
theorem stepsNotEnabledAreNotTaken : Obligations.StepsNotEnabledAreNotTaken := by
  unfold Obligations.StepsNotEnabledAreNotTaken
  intro s c ctl fmt k x
  refine ⟨fun h => exec_begin_of_not_owes h ctl, fun h => exec_tick_of_not_owes h fmt ctl, exec_chEmit_of_not_owes,
    fun h => ?rcAdd, fun h => ?idleDisabled, fun h => ?idleStopped, exec_fetchRow_of_ne, fun h => ?noEnd,
    fun h => ?endLoop, fun h => ?endStop, fun h => exec_srcIn_of_not_owes h x, exec_frame_of_not_owes⟩
  case rcAdd =>
    have hstop := (stopped_iff _).2 h
    exact when_and_of_ne_right s (by simp [hstop])
  case idleDisabled =>
    exact when_and_of_ne_right s fun he => h ((ctrlClass_idleDisabled_iff _).1 (of_decide_eq_true he))
  case idleStopped =>
    exact when_and_of_ne_right s fun he => h ((ctrlClass_idleStopped_iff _).1 (of_decide_eq_true he))
  case noEnd =>
    simp only [List.mem_cons, List.not_mem_nil, or_false, forall_eq_or_imp, forall_eq]
    exact ⟨exec_endLoop_of_ne fun he => h ((endsIn_eq_some_iff _ _).1 he).1,
      exec_endStop_of_ne fun he => h ((endsIn_eq_some_iff _ _).1 he).1⟩
  case endLoop =>
    exact exec_endLoop_of_ne fun he => Bool.false_ne_true (h.symm.trans ((endsIn_eq_some_iff _ _).1 he).2)
  case endStop =>
    exact exec_endStop_of_ne fun he => Bool.false_ne_true (((endsIn_eq_some_iff _ _).1 he).2.symm.trans h)

/-- Settles O36: rendering is a part of every enabling condition of the render side (R272). -/
theorem disabledRenderingFreezes : Obligations.DisabledRenderingFreezes := by
  unfold Obligations.DisabledRenderingFreezes
  intro s hdis
  have hren : s.params.renderEnabled ≠ true := by simp [hdis]
  refine ⟨fun i c hc => ?channel, fun k x => exec_srcIn_of_not_owes (fun q h => hren h.1) x, fun side => ?mixer,
    fun n => ?render, nextOwn_eq_none (.inr hdis)⟩
  case channel =>
    obtain ⟨t, hexec, he⟩ := exec_effect i s
    rw [hexec]
    rcases effect_of_channel he hc with rfl | ⟨h, -⟩ | ⟨-, h, -⟩ | ⟨h, -⟩ | ⟨h, -⟩
    · rfl
    all_goals exact absurd h.1 hren
  case mixer =>
    have hframe := exec_frame_of_not_owes (s := s) fun h => hren h.1
    simp only [List.mem_cons, List.not_mem_nil, or_false, forall_eq_or_imp, forall_eq] at hframe ⊢
    exact ⟨hframe.1, when_of_ne s _ hren, when_of_ne s _ hren, hframe.2⟩
  case render =>
    rw [exec, execRender, State.requestFrames, if_pos (.inl hdis)]

end Sys2Proof.Machine
end

section
/-! Integer arithmetic of the clock ratio, the decoder and the mixer (R9, R14, R46, R47, R180, R181, R213, R240). -/

namespace Sys2Proof.Machine

/-! ## Division truncating toward zero (R14) -/

/-- A truncating division divides the magnitude. -/
theorem tdiv_cases (x n : Int) : (0 ≤ x ∧ x.tdiv n = x / n) ∨ (x < 0 ∧ x.tdiv n = -(-x / n)) := by
  rcases le_or_gt 0 x with h | h
  · exact .inl ⟨h, Int.tdiv_eq_ediv_of_nonneg h⟩
  · refine .inr ⟨h, ?_⟩
    rw [← Int.tdiv_eq_ediv_of_nonneg (by omega), Int.neg_tdiv, neg_neg]

/-- A quotient by 255 lies between the bounds of its numerator. -/
theorem tdiv_255_mem {x lo hi : Int} (hlo : lo * 255 ≤ x) (hhi : x ≤ hi * 255) :
    lo ≤ x.tdiv 255 ∧ x.tdiv 255 ≤ hi := by
  rcases tdiv_cases x 255 with ⟨h, heq⟩ | ⟨h, heq⟩ <;> rw [heq] <;> omega

/-- A quotient by 100 is no larger than a hundredth of the magnitude. -/
theorem abs_tdiv_100_le (x : Int) : 100 * |x.tdiv 100| ≤ |x| := by
  rcases tdiv_cases x 100 with ⟨h, heq⟩ | ⟨h, heq⟩ <;> rw [heq]
  · rw [abs_of_nonneg h, abs_of_nonneg (by omega)]
    omega
  · rw [abs_neg, abs_of_neg h, abs_of_nonneg (by omega)]
    omega

/-! ## The clock ratio (R9) -/

/-- Settles O15: numerator and denominator are the clocks divided by their greatest common divisor. -/
theorem clockRatioInLowestTerms : Obligations.ClockRatioInLowestTerms := by
  unfold Obligations.ClockRatioInLowestTerms
  intro p hnative hrate
  have hgcd : 0 < Nat.gcd p.nativeClockHz p.outputSampleRate := Nat.gcd_pos_of_pos_left _ hnative
  have hnum := Nat.gcd_dvd_left p.nativeClockHz p.outputSampleRate
  have hden := Nat.gcd_dvd_right p.nativeClockHz p.outputSampleRate
  refine ⟨?_, Nat.coprime_div_gcd_div_gcd hgcd, Nat.div_pos (Nat.le_of_dvd hnative hnum) hgcd,
    Nat.div_pos (Nat.le_of_dvd hrate hden) hgcd, accOne_pos p hrate⟩
  rw [ratioNum, ratioDen, Nat.div_mul_right_comm hnum, Nat.div_mul_right_comm hden, Nat.mul_comm]

/-! ## Sixteen-bit values (R13, R240) -/

theorem sampleOfInt_toInt {x : Int} (hlo : -32768 ≤ x) (hhi : x ≤ 32767) : (sampleOfInt x).toInt = x :=
  BitVec.toInt_ofInt_eq_self (by decide) hlo (by omega)

/-- The clipped value fits a sample. -/
theorem sampleOfInt_clip16_toInt (x : Int) : (sampleOfInt (clip16 x)).toInt = specClip x := by
  obtain ⟨hlo, hhi⟩ := clip16_mem x
  exact sampleOfInt_toInt hlo hhi

/-! ## Volume scaling (R180, R181) -/

/-- The scaled value fits a sample: the volume is at most 255. -/
theorem scaleTwos_mem (raw : Sample) (v : Byte) : -32768 ≤ scaleTwos raw v ∧ scaleTwos raw v ≤ 32767 := by
  have hlo : -32768 ≤ raw.toInt := BitVec.le_toInt raw
  have hhi : raw.toInt < 32768 := BitVec.toInt_lt
  have hv : (v.toNat : Int) ≤ 255 := by have := v.isLt; omega
  exact tdiv_255_mem (by nlinarith) (by nlinarith)

theorem volScale_twos_toInt (raw : Sample) (v : Byte) :
    (volScale .twosComplement raw v).toInt = Int.tdiv (raw.toInt * v.toNat) 255 := by
  obtain ⟨hlo, hhi⟩ := scaleTwos_mem raw v
  exact sampleOfInt_toInt hlo hhi

/-- Settles O34: the quotient fits (`scaleTwos_mem`); at 255 it is the sample, at 0 it is 0. -/
theorem volumeScalesExactly : Obligations.VolumeScalesExactly := by
  unfold Obligations.VolumeScalesExactly
  intro raw v
  refine ⟨volScale_twos_toInt raw v, BitVec.eq_of_toInt_eq ?_, BitVec.eq_of_toInt_eq ?_⟩
  · rw [volScale_twos_toInt]
    exact Int.mul_tdiv_cancel _ (by decide)
  · simp [volScale_twos_toInt]

/-- The quotient of the unsigned reading fits 16 bits. -/
theorem scaleWrap_lt (raw : Sample) (v : Byte) : scaleWrap raw v < 65536 := by
  have hraw := raw.isLt
  have hv : v.toNat ≤ 255 := by have := v.isLt; omega
  rw [scaleWrap]
  exact Nat.div_lt_of_lt_mul (by nlinarith)

/-- The two readings agree when the two quotients are congruent modulo 2^16. -/
theorem volScale_eq_iff (raw : Sample) (v : Byte) :
    volScale .twosComplement raw v = volScale .unsignedWrap raw v ↔ scaleTwos raw v % 65536 = scaleWrap raw v := by
  have hlt := scaleWrap_lt raw v
  rw [← BitVec.toNat_inj, volScale, volScale, sampleOfInt, BitVec.toNat_ofInt, BitVec.toNat_ofNat]
  omega

/-- A pattern with bit 15 set is 65536 more than the number it stands for, so its two quotients differ by `257 * v`, or
by one less: a multiple of 65536 at the end volumes only. -/
theorem scaleTwos_mod_eq_iff_of_high {raw : Sample} (h : 0x8000 ≤ raw.toNat) (v : Byte) :
    scaleTwos raw v % 65536 = scaleWrap raw v ↔ v.toNat = 255 ∨ v.toNat = 0 := by
  have hraw := raw.isLt
  have hv := v.isLt
  obtain ⟨k, hk⟩ : ∃ k, raw.toNat + k = 65536 := ⟨65536 - raw.toNat, by omega⟩
  have hint : raw.toInt = -(k : Int) := by rw [BitVec.toInt_eq_toNat_cond]; omega
  have hsum : raw.toNat * v.toNat + k * v.toNat = 65536 * v.toNat := by rw [← Nat.add_mul, hk]
  have htwos : scaleTwos raw v = -((k * v.toNat / 255 : Nat) : Int) := by
    rw [scaleTwos, hint, Int.neg_mul, tdiv, Int.neg_tdiv, Int.tdiv_eq_ediv_of_nonneg (by positivity)]
    norm_cast
  rw [htwos, scaleWrap]
  constructor
  · omega
  · rintro (hv | hv) <;> rw [hv] <;> omega

/-- A pattern below 0x8000 is the number it stands for, and the two quotients are one. -/
theorem scaleTwos_of_low {raw : Sample} (h : raw.toNat < 0x8000) (v : Byte) : scaleTwos raw v = scaleWrap raw v := by
  have hint : raw.toInt = raw.toNat := by rw [BitVec.toInt_eq_toNat_cond]; omega
  rw [scaleTwos, hint, tdiv, Int.tdiv_eq_ediv_of_nonneg (by positivity), scaleWrap]
  norm_cast

/-- Settles O35: below 0x8000 both readings are the same number; above, `scaleTwos_mod_eq_iff_of_high`. -/
theorem rawReadingsAgreement : Obligations.RawReadingsAgreement := by
  unfold Obligations.RawReadingsAgreement
  intro raw v
  have hv255 : v.toNat = 255 ↔ v = 255 := BitVec.toNat_inj (y := 255)
  have hv0 : v.toNat = 0 ↔ v = 0 := BitVec.toNat_inj (y := 0)
  rw [volScale_eq_iff, ← hv255, ← hv0]
  rcases lt_or_ge raw.toNat 0x8000 with hlow | hhigh
  · have hlt := scaleWrap_lt raw v
    rw [scaleTwos_of_low hlow]
    exact iff_of_true (by omega) (.inl hlow)
  · exact (scaleTwos_mod_eq_iff_of_high hhigh v).trans (or_iff_right (by omega)).symm

/-! ## The gains (R46, R213, R221) -/

theorem sepHalf_mem {x : Int} (hlo : -100 ≤ x) (hhi : x ≤ 100) : 0 ≤ sepHalf x ∧ sepHalf x ≤ 100 := by
  rw [sepHalf, tdiv, Int.tdiv_eq_ediv_of_nonneg (by omega)]
  omega

/-- Settles O44: with `sepHalf` in range both products are nonnegative and sum to `100 * m`. -/
theorem gainRanges : Obligations.GainRanges := by
  unfold Obligations.GainRanges
  intro m x hm0 hm hlo hhi
  obtain ⟨hs0, hs⟩ := sepHalf_mem hlo hhi
  have hprimary : 0 ≤ sepHalf x * m := Int.mul_nonneg hs0 hm0
  have hcross : 0 ≤ (100 - sepHalf x) * m := Int.mul_nonneg (by omega) hm0
  have hsum : sepHalf x * m + (100 - sepHalf x) * m = 100 * m := by ring
  rw [primaryGain, crossGain, tdiv, tdiv, Int.tdiv_eq_ediv_of_nonneg hprimary, Int.tdiv_eq_ediv_of_nonneg hcross]
  omega

/-- One output of the matrix, when the gains are nonnegative and together at most 100. -/
theorem abs_matrix_le {l r g g' : Int} (hg : 0 ≤ g) (hg' : 0 ≤ g') (hsum : g + g' ≤ 100) :
    |(l * g).tdiv 100 + (r * g').tdiv 100| ≤ max |l| |r| := by
  have hl := abs_tdiv_100_le (l * g)
  have hr := abs_tdiv_100_le (r * g')
  have htri := abs_add_le ((l * g).tdiv 100) ((r * g').tdiv 100)
  rw [abs_mul, abs_of_nonneg hg] at hl
  rw [abs_mul, abs_of_nonneg hg'] at hr
  have hlmax : |l| * g ≤ max |l| |r| * g := mul_le_mul_of_nonneg_right (le_max_left ..) hg
  have hrmax : |r| * g' ≤ max |l| |r| * g' := mul_le_mul_of_nonneg_right (le_max_right ..) hg'
  have hmax : max |l| |r| * (g + g') ≤ max |l| |r| * 100 :=
    mul_le_mul_of_nonneg_left hsum (le_max_of_le_left (abs_nonneg l))
  rw [mul_add] at hmax
  linarith

/-- Settles O45: each result is `abs_matrix_le` at the gains of a legal configuration. -/
theorem matrixNeverAmplifies : Obligations.MatrixNeverAmplifies := by
  unfold Obligations.MatrixNeverAmplifies
  intro m x l r hm0 hm hlo hhi
  obtain ⟨-, -, hg0, -, hc0, -, hsum⟩ := gainRanges m x hm0 hm hlo hhi
  have hsum' := hsum.trans hm
  exact ⟨abs_matrix_le hg0 hc0 hsum', max_comm |r| |l| ▸ abs_matrix_le hg0 hc0 hsum'⟩

/-- Settles O43: the gains are 100 and 0, 0 and 100, or 50 each, and a product by 100 divides back. -/
theorem landmarkSeparations : Obligations.LandmarkSeparations := by
  unfold Obligations.LandmarkSeparations
  intro l r
  have hwhole : ∀ x : Int, tdiv (x * 100) 100 = x := fun x => Int.mul_tdiv_cancel x (by decide)
  have hnone : tdiv 0 100 = 0 := by decide
  refine ⟨?isolated, ?swapped, ?blended⟩
  case isolated =>
    change mixMatrixOf 100 0 ⟨l, r⟩ = _
    simp [mixMatrixOf, hwhole, hnone]
  case swapped =>
    change mixMatrixOf 0 100 ⟨l, r⟩ = _
    simp [mixMatrixOf, hwhole, hnone]
  case blended =>
    change mixMatrixOf 50 50 ⟨l, r⟩ = _
    rw [mixMatrixOf, Int.add_comm (tdiv (r * 50) 100)]
    rfl

end Sys2Proof.Machine
end

section
/-! Chip sources, mixer and output as operations (spec/43_chip_source_adapter.md, spec/44_audio_mixer_router.md,
spec/45_output_clipper.md). -/

namespace Sys2Proof.Machine

/-! ## SRC.IN -/

/-- An enabled draw is taken (R200). -/
theorem exec_srcIn {s : State} {k : Nat} {q : List Sample} (h : OwesDraw s k q) (x : Sample) :
    exec (.srcIn k x) s = .next (s.supply k x) := by
  simp [exec, execSrcIn, (canDraw_iff s k).2 ⟨q, h⟩]

/-- Settles O37: the supply appends to the one queue. -/
theorem sourceSuppliesSample : Obligations.SourceSuppliesSample := by
  unfold Obligations.SourceSuppliesSample
  intro s k x q howes
  refine ⟨_, exec_srcIn howes x, ?_, fun j hj => ?_, rfl⟩
  · rw [supply_chipQueues, List.getElem?_modify_eq, howes.2.1]
    rfl
  · rw [supply_chipQueues, List.getElem?_modify_ne _ _ (Ne.symm hj)]

/-! ## MIX.SUM -/

theorem busTotal_append (bus : Bus) (l l' : List (Bus × Sample)) :
    busTotal bus (l ++ l') = busTotal bus l + busTotal bus l' := by
  induction l with
  | nil => simp [busTotal]
  | cons e rest ih => simp only [List.cons_append, busTotal, ih, Int.add_assoc]

/-- The chip sources' part of a bus sum, as a sum over the sources and their queues. -/
theorem busTotal_zip_heads (bus : Bus) (buses : List Bus) (queues : List (List Sample)) :
    busTotal bus (buses.zip (queues.map fun q => q.headD 0))
      = ((buses.zip queues).map fun e => if e.1 = bus then (e.2.headD 0).toInt else 0).sum := by
  induction buses generalizing queues with
  | nil => rfl
  | cons b buses ih =>
    cases queues with
    | nil => rfl
    | cons q queues => simp only [List.map_cons, List.zip_cons_cons, busTotal, ih, List.sum_cons]

/-- The sum of the sources' samples is the spec's bus sum (R210). -/
theorem busTotal_sources (s : State) (bus : Bus) : busTotal bus s.sources = specBusSum s bus := by
  rw [State.sources, busTotal_append, busTotal_zip_heads]
  simp only [PerChan.toList, List.map_cons, List.map_nil, List.zip_cons_cons, List.zip_nil_right, busTotal, specBusSum]
  omega

/-- Settles O38: an enabled `MIX.SUM` writes the two totals of `busTotal_sources`. -/
theorem busSummation : Obligations.BusSummation := by
  unfold Obligations.BusSummation
  intro s howes
  have hexec : exec .mixSum s = .next s.sumBuses := by simp [exec, execMixSum, (frameReady_iff s).2 howes]
  refine ⟨_, hexec, ?_, rfl⟩
  rw [sumBuses_busSum, busTotal_sources, busTotal_sources]

/-! ## MIX.MATRIX -/

/-- Settles O39: the enabled `MIX.MATRIX` writes the matrix of the sums last formed. -/
theorem matrixOfTheSums : Obligations.MatrixOfTheSums := by
  unfold Obligations.MatrixOfTheSums
  intro s hren
  have hexec : exec .mixMatrix s = .next s.applyMatrix := by simp [exec, execMixMatrix, hren]
  exact ⟨_, hexec, rfl, rfl, rfl⟩

/-! ## CLIP.S16 -/

/-- Settles O41: the clipped result of the side is `sampleOfInt_clip16_toInt`; the other side stays. -/
theorem clipOperation : Obligations.ClipOperation := by
  unfold Obligations.ClipOperation
  intro s hren
  have hexec : ∀ side, exec (.clipS16 side) s = .next (s.clipSide side) := fun side => by simp [exec, execClipS16, hren]
  exact ⟨⟨_, hexec .left, sampleOfInt_clip16_toInt _, rfl, rfl⟩,
    ⟨_, hexec .right, sampleOfInt_clip16_toInt _, rfl, rfl⟩⟩

/-! ## FRAME.OUT -/

/-- An enabled `FRAME.OUT` is taken (R245). -/
theorem exec_frameOut {s : State} (h : OwesFrame s) : exec .frameOut s = .next s.frameStep := by
  simp [exec, execFrameOut, (frameReady_iff s).2 h]

theorem frameStep_chan (s : State) (c : Chan) : s.frameStep.chan c = { s.chan c with out := (s.chan c).out.tail } := by
  rw [State.chan, frameStep_chans, PerChan.get_map]
  rfl

/-- A state that agrees with another in what a frame leaves alone differs from it in the fields a frame writes. -/
theorem eq_of_frame_fields {s t : State} (hp : t.params = s.params) (hv : t.masterVolume = s.masterVolume)
    (hx : t.stereoSeparation = s.stereoSeparation) (hgp : t.gainPrimary = s.gainPrimary)
    (hgc : t.gainCross = s.gainCross) (hm : t.mem = s.mem) (hr : t.reads = s.reads)
    (ho : t.ownSteps = s.ownSteps) (hi : t.inbox = s.inbox) (hl : t.later = s.later) :
    t = { s with
      chans := t.chans, chipQueues := t.chipQueues, framesLeft := t.framesLeft, requests := t.requests
      busSum := t.busSum, mixOut := t.mixOut, clipOut := t.clipOut, frames := t.frames } := by
  cases s
  cases t
  subst hp hv hx hgp hgc hm hr ho hi hl
  rfl

/-- What a frame may write. -/
theorem frameStep_frame (s : State) :
    s.frameStep = { s with
      chans := s.frameStep.chans, chipQueues := s.frameStep.chipQueues, framesLeft := s.frameStep.framesLeft
      requests := s.frameStep.requests, busSum := s.frameStep.busSum, mixOut := s.frameStep.mixOut
      clipOut := s.frameStep.clipOut, frames := s.frameStep.frames } :=
  eq_of_frame_fields (frameStep_params s) (frameStep_masterVolume s) (frameStep_stereoSeparation s)
    (frameStep_gainPrimary s) (frameStep_gainCross s) (frameStep_mem s) (frameStep_reads s) (frameStep_ownSteps s)
    (frameStep_inbox s) (frameStep_later s)

/-- Settles O42: `frameStep` outputs the clipped matrix of the bus sums (`frameStep_frames`), uses up one sample of each
source, moves the pass boundary by `frameStep_pass`, and writes nothing else. -/
theorem frameOutput : Obligations.FrameOutput := by
  unfold Obligations.FrameOutput
  intro s howes
  refine ⟨_, _, exec_frameOut howes, frameStep_frames s, ?left, ?right, frameStep_chan s, frameStep_chipQueues s,
    fun hlt => ?more, fun hone hnil => ?last, fun hone n rest hcons => ?next, frameStep_frame s⟩
  case left | right =>
    simp only [clipPair, sampleOfInt_clip16_toInt, mixMatrixOf, busTotal_sources, specMatrix, tdiv]
  all_goals
    rcases frameStep_pass s with ⟨hle, hreq, hfl, hrq⟩ | ⟨hle, n', rest', hreq, hfl, hrq⟩ | ⟨hlt', hfl, hrq⟩
  case more.inl | more.inr.inl | last.inr.inr | next.inr.inr => omega
  case more.inr.inr | last.inl => exact ⟨hfl, hrq⟩
  case last.inr.inl => cases hreq.symm.trans hnil
  case next.inl => cases hreq.symm.trans hcons
  case next.inr.inl =>
    cases hreq.symm.trans hcons
    exact ⟨hfl, hrq⟩

/-! ## CFG.SET -/

/-- Under the invariant the gains are those that the configuration derives, so deriving them again changes nothing. -/
theorem updateGains_of_inv {s : State} (h : StateInv s) : s.updateGains = s := by
  obtain ⟨-, -, -, -, -, -, -, -, hgp, hgc, -⟩ := h
  rw [State.updateGains, ← hgp, ← hgc]

/-- Settles O46: the stores clamp or keep, the gains are derived from what was stored, and with both arguments UNCHANGED
the derived gains are the present ones. -/
theorem configurationStores : Obligations.ConfigurationStores := by
  unfold Obligations.ConfigurationStores
  intro s volume separation
  refine ⟨⟨_, rfl, ?_, ?_, ?_, ?_, rfl, rfl, rfl⟩, fun h => congrArg Host.Outcome.next (updateGains_of_inv h)⟩
  · rintro rfl; rfl
  · rintro v rfl; rfl
  · rintro rfl; rfl
  · rintro x rfl; rfl

end Sys2Proof.Machine
end

section
/-! The rest of the host's operations (spec/46_host_ops_and_render_pass.md): the pointer (R256), byte writes at an I/O
address (R69, R262), stores outside the array (log 11), `RENDER` (R270) and the pseudo-operations (R113). -/

namespace Sys2Proof.Machine

/-- Settles O50: `HW.CURRENT` is the write of the pointer field. -/
theorem hostWritesThePointer : Obligations.HostWritesThePointer := by
  unfold Obligations.HostWritesThePointer
  exact fun s c v => fieldWrite_stores s c .currentAddress v

/-- Settles O55. -/
theorem hostStoreOutsideTheArray : Obligations.HostStoreOutsideTheArray := by
  unfold Obligations.HostStoreOutsideTheArray
  intro s a b ha
  rw [exec, execMemWr, State.hostStore, if_neg (Nat.not_lt.mpr ha)]

/-! ## Byte writes at an I/O address -/

section
variable {p : Params} {a : Nat}

/-- An address of a block is at its offset there (R69). -/
theorem ioOffset_of_mem {c : Chan} {off : Nat} (h : off < 13) : ioOffset p (p.regBase.get c + off) c = some off := by
  rw [ioOffset, if_pos (by omega), Nat.add_sub_cancel_left]

theorem ioOffset_of_not_mem {c : Chan} (h : a < p.regBase.get c ∨ p.regBase.get c + 13 ≤ a) : ioOffset p a c = none :=
  if_neg (by omega)

/-- The blocks of two channels do not overlap (R69). -/
theorem blocksApart_of_wf (hp : ParamsWf p) {c d : Chan} (hne : c ≠ d) :
    blocksApart (p.regBase.get c) (p.regBase.get d) := by
  obtain ⟨-, -, -, -, -, -, -, h01, h02, h03, h12, h13, h23⟩ := hp
  cases c <;> cases d
  case c0.c0 | c1.c1 | c2.c2 | c3.c3 => exact absurd rfl hne
  all_goals dsimp only [PerChan.get]; omega

/-- An address that lies in one block alone is decoded to it. -/
theorem ioDecode_of_unique {c : Chan} {off : Nat} (hc : ioOffset p a c = some off)
    (hne : ∀ d, d ≠ c → ioOffset p a d = none) : ioDecode p a = some (c, off) := by
  cases c <;> simp [ioDecode, hc, hne]

theorem ioDecode_of_mem (hp : ParamsWf p) (c : Chan) {off : Nat} (h : off < 13) :
    ioDecode p (p.regBase.get c + off) = some (c, off) := by
  refine ioDecode_of_unique (ioOffset_of_mem h) fun d hne => ioOffset_of_not_mem ?_
  have hapart := blocksApart_of_wf hp hne
  omega

theorem ioDecode_of_not_mem (h : ∀ c, a < p.regBase.get c ∨ p.regBase.get c + 13 ≤ a) : ioDecode p a = none := by
  simp [ioDecode, ioOffset_of_not_mem (h _)]

end

/-- Settles O52: an address in a block is decoded to that block alone (`ioDecode_of_mem`), whose byte is replaced; one
in no block is decoded to none. -/
theorem ioAddressSelectsTheBlock : Obligations.IoAddressSelectsTheBlock := by
  unfold Obligations.IoAddressSelectsTheBlock
  intro s b hp
  refine ⟨fun c off hoff => ⟨s.hostByte c off b, ?_, hostByte_replaces s c b hoff⟩, fun a ha => ?_⟩
  · simp only [exec, execHwByte, ioDecode_of_mem hp c hoff]
  · simp only [exec, execHwByte, ioDecode_of_not_mem ha]

/-! ## RENDER -/

section
variable {s : State} {n : Nat}

/-- `RENDER n` opens a pass when none runs (R270). -/
theorem exec_render_of_idle (hren : s.params.renderEnabled = true) (hn : 0 < n) (hidle : s.framesLeft = 0) :
    exec (.render n) s = .next { s with framesLeft := n } := by
  rw [exec, execRender, State.requestFrames, if_neg (by simp [hren]; omega), if_pos hidle]

/-- `RENDER n` waits behind a running pass (log 12). -/
theorem exec_render_of_running (hren : s.params.renderEnabled = true) (hn : 0 < n) (hrun : 0 < s.framesLeft) :
    exec (.render n) s = .next { s with requests := s.requests ++ [n] } := by
  rw [exec, execRender, State.requestFrames, if_neg (by simp [hren]; omega), if_neg (by omega)]

/-- `RENDER 0` does nothing (R270). -/
theorem exec_render_zero (s : State) : exec (.render 0) s = .next s := by
  rw [exec, execRender, State.requestFrames, if_pos (.inr rfl)]

end

/-- Settles O57. -/
theorem renderOpensAPass : Obligations.RenderOpensAPass := by
  unfold Obligations.RenderOpensAPass
  exact fun s n hren => ⟨exec_render_of_idle hren, exec_render_of_running hren, exec_render_zero s⟩

/-! ## The pseudo-operations -/

/-- The block after a list of field writes, taken in order. -/
def writeFields (r : RegBlock) : List (RegField × Nat) → RegBlock
  | [] => r
  | (f, v) :: rest => writeFields (writeField r f v) rest

/-- Writing a register block twice keeps the second. -/
theorem setRegs_setRegs_same (s : State) (c : Chan) (r r' : RegBlock) :
    (s.setRegs c r).setRegs c r' = s.setRegs c r' := by
  simp [State.setRegs]

theorem execAll_fieldWrites (s : State) (c : Chan) (writes : List (RegField × Nat)) :
    execAll (writes.map fun w => fieldWrite c w.1 w.2) s
      = .next (s.setRegs c (writeFields (s.chan c).regs writes)) := by
  induction writes generalizing s with
  | nil => exact congrArg Host.Outcome.next (setChan_chan_self s c).symm
  | cons w rest ih =>
    rw [List.map_cons, execAll_cons_of_next (exec_fieldWrite ..), ih, setRegs_setRegs_same, setRegs_regs]
    rfl

theorem fieldWrites_store (s : State) (c : Chan) (writes : List (RegField × Nat)) :
    ∃ t, execAll (writes.map fun w => fieldWrite c w.1 w.2) s = .next t ∧ OnlyChannel c s t
      ∧ t.chan c = { s.chan c with regs := writeFields (s.chan c).regs writes } :=
  ⟨_, execAll_fieldWrites s c writes, setRegs_onlyChannel .., chan_setRegs_same ..⟩

/-- Settles O60: each pseudo-operation is a list of field writes, whose state is `fieldWrites_store`. -/
theorem pseudoOperationsExpand : Obligations.PseudoOperationsExpand := by
  unfold Obligations.PseudoOperationsExpand
  intro p s c
  refine ⟨fun fmt loop hfmt hloop => ?enable, ⟨rfl, fieldWrites_store s c [(.control, 0)]⟩,
    fun start endAddr rate vol cur => ⟨rfl, fieldWrites_store s c [(.startAddress, start), (.endAddress, endAddr),
      (.rateIncrement, rate), (.volume, vol), (.currentAddress, cur)]⟩⟩
  case enable =>
    have hvalue : 0x80 ||| (loop <<< 6) ||| fmt = 128 + 64 * loop + fmt := by
      interval_cases loop <;> interval_cases fmt <;> rfl
    have hinstrs : (DriverLine.enable c fmt loop).instrs p = [.hwControl c (128 + 64 * loop + fmt)] := by
      rw [DriverLine.instrs, hvalue]
    rw [hinstrs]
    exact ⟨rfl, fieldWrites_store s c [(.control, 128 + 64 * loop + fmt)]⟩

end Sys2Proof.Machine
end

section
/-! The fetch of a channel (spec/42_dma_sample_decoder.md, spec/41_dma_channel_engine.md R150 to R152): the datum, its
scaling, the advance, and the three ends. -/

namespace Sys2Proof.Machine

/-! ## The datum (R96, R170 to R175) -/

theorem rawLo4_toNat (b : Byte) : (rawLo4 b).toNat = b.toNat % 16 * 4096 := by revert b; decide +kernel
theorem rawHi4_toNat (b : Byte) : (rawHi4 b).toNat = b.toNat / 16 * 4096 := by revert b; decide +kernel
theorem rawB8_toNat (b : Byte) : (rawB8 b).toNat = b.toNat * 256 := by revert b; decide +kernel

section
variable {memSize : Nat} {fmt : Format} {a : Addr}

theorem beyondArray_eq_false (h : a.toNat + stepBytes fmt ≤ memSize) : beyondArray memSize fmt a = false := by
  have hstep : 0 < stepBytes fmt := by cases fmt <;> decide
  exact decide_eq_false (by omega)

/-- In bounds, the raw pattern is the datum at the address (R96). -/
theorem fetchRaw_toNat (m : Memory) (h : a.toNat + stepBytes fmt ≤ memSize) :
    (fetchRaw memSize m fmt a).toNat = rawNumber fmt (m.read a.toNat).toNat (m.read (a.toNat + 1)).toNat := by
  unfold fetchRaw
  rw [beyondArray_eq_false h]
  cases fmt
  case lo4 => exact rawLo4_toNat _
  case hi4 => exact rawHi4_toNat _
  case b8 => exact rawB8_toNat _
  case w16 => exact (le16_toNat _ _).trans (by rw [rawNumber, Nat.mul_comm 256])

/-- Out of bounds it is silence (R175). -/
theorem fetchRaw_of_beyond (m : Memory) (h : memSize < a.toNat + stepBytes fmt) : fetchRaw memSize m fmt a = 0 :=
  if_pos (decide_eq_true (by omega))

end

theorem toInt_eq_sext16 (x : Sample) : x.toInt = sext16 x.toNat := by
  rw [BitVec.toInt_eq_toNat_cond, sext16]
  split <;> split <;> omega

/-- Scaling on numbers, under either reading (R180, R181). -/
theorem volScale_toInt (interp : RawInterp) {raw : Sample} {fmt : Format} {b0 b1 : Nat}
    (hraw : raw.toNat = rawNumber fmt b0 b1) (v : Byte) :
    (volScale interp raw v).toInt = scaledNumber interp fmt b0 b1 v.toNat := by
  cases interp with
  | twosComplement => rw [volScale_twos_toInt, scaledNumber, toInt_eq_sext16, hraw]
  | unsignedWrap =>
    rw [toInt_eq_sext16, volScale, BitVec.toNat_ofNat, Nat.mod_eq_of_lt (scaleWrap_lt raw v), scaleWrap, hraw,
      scaledNumber]

theorem volScale_zero (interp : RawInterp) (v : Byte) : volScale interp 0 v = 0 := by
  cases interp
  · simp [volScale, scaleTwos, tdiv, sampleOfInt]
  · simp [volScale, scaleWrap]

/-! ## One tick -/

/-- The sample a fetch of the channel holds: the raw pattern at the pointer, scaled by the volume (R170). -/
def Channel.fetched (p : Params) (m : Memory) (ch : Channel) : Sample :=
  volScale p.rawInterp (fetchRaw p.memSize m (formatOf ch.regs.control) ch.regs.currentAddress) ch.regs.volume

/-- The advanced address of the channel's next fetch, on numbers (R176). -/
abbrev Channel.advanced (ch : Channel) : Addr :=
  BitVec.ofNat 24 (ch.regs.currentAddress.toNat + stepBytes (formatOf ch.regs.control))

theorem advance_eq_advanced (ch : Channel) :
    advance (formatOf ch.regs.control) ch.regs.currentAddress = ch.advanced := by
  rw [advance, Channel.advanced, BitVec.ofNat_add, BitVec.ofNat_toNat, BitVec.setWidth_eq]

section
variable (p : Params) (m : Memory) {ch : Channel}

/-- In bounds, the sample held is the datum at the pointer scaled by the volume (R180, R181). -/
theorem fetched_toInt (h : ch.regs.currentAddress.toNat + stepBytes (formatOf ch.regs.control) ≤ p.memSize) :
    (ch.fetched p m).toInt = scaledNumber p.rawInterp (formatOf ch.regs.control)
      (m.read ch.regs.currentAddress.toNat).toNat (m.read (ch.regs.currentAddress.toNat + 1)).toNat
      ch.regs.volume.toNat :=
  volScale_toInt _ (fetchRaw_toNat m h) _

theorem fetched_of_beyond (h : p.memSize < ch.regs.currentAddress.toNat + stepBytes (formatOf ch.regs.control)) :
    ch.fetched p m = 0 := by
  rw [Channel.fetched, fetchRaw_of_beyond m h, volScale_zero]

/-- Away from the end address a tick advances the pointer (R176). -/
theorem tick_of_no_end (h : ¬ ch.MeetsEnd) :
    ch.tick p m = { ch with
      accn := ch.accn - accOne p
      last := ch.fetched p m
      regs := { ch.regs with currentAddress := ch.advanced } } := by
  rw [← advance_eq_advanced]
  exact if_neg (mt (endMatch_iff_meetsEnd ch).1 h)

/-- At the end address with `LOOP = 1` a tick loads the pointer from `startAddress` (R151). -/
theorem tick_of_loop (h : ch.MeetsEnd) (hloop : ch.regs.control.getLsbD 6 = true) :
    ch.tick p m = { ch with
      accn := ch.accn - accOne p
      last := ch.fetched p m
      regs := { ch.regs with currentAddress := ch.regs.startAddress } } :=
  (if_pos ((endMatch_iff_meetsEnd ch).2 h)).trans (if_pos hloop)

/-- At the end address with `LOOP = 0` a tick stops the channel (R152). -/
theorem tick_of_stop (h : ch.MeetsEnd) (hloop : ch.regs.control.getLsbD 6 = false) :
    ch.tick p m = { ch with
      regs := { ch.regs with
        control := ch.regs.control ||| 0x08
        currentAddress := ch.advanced }
      last := 0
      accn := 0 } := by
  rw [← advance_eq_advanced]
  exact (if_pos ((endMatch_iff_meetsEnd ch).2 h)).trans (if_neg (by simpa [loopBit] using hloop))

end

/-! ## The rows of a tick -/

section
variable {s : State} {c : Chan} {ctl : Byte}

/-- The live format's row with the live loop bit is the tick (R110, log 4). -/
theorem exec_fetchRow_of_owes {fmt : Format} (howes : OwesTick s c) (hfmt : formatOf (s.chan c).regs.control = fmt)
    (hloop : (s.chan c).regs.control.getLsbD 6 = ctl.getLsbD 6) :
    exec (fetchRow fmt c ctl) s = .next (s.tickChan c) := by
  have hloop' : loopBit (s.chan c).regs.control = loopBit ctl := hloop
  rw [exec_fetchRow, State.fetchAs, (canTick_iff s c).2 howes]
  simp [hfmt, hloop']

/-- The row of the end that the tick meets is the tick (R151, R152, log 4). -/
theorem exec_end_of_owes (howes : OwesTick s c) :
    ((s.chan c).endsIn = some true → exec (.endLoop c) s = .next (s.tickChan c))
    ∧ ((s.chan c).endsIn = some false → exec (.endStop c) s = .next (s.tickChan c)) := by
  have hcan := (canTick_iff s c).2 howes
  exact ⟨fun h => by simp [exec, execEndLoop, hcan, h], fun h => by simp [exec, execEndStop, hcan, h]⟩

/-- The rows of a tick in the live format and loop bit are one step. -/
theorem exec_tick_rows {fmt : Format} (howes : OwesTick s c) (hfmt : formatOf (s.chan c).regs.control = fmt)
    (hloop : (s.chan c).regs.control.getLsbD 6 = ctl.getLsbD 6) :
    ∀ i ∈ [fetchRow fmt c ctl, .rcTick c, .volScale c], exec i s = .next (s.tickChan c) := by
  simp only [List.mem_cons, List.not_mem_nil, or_false, forall_eq_or_imp, forall_eq]
  exact ⟨exec_fetchRow_of_owes howes hfmt hloop, exec_tick s howes⟩

/-- The rows of a tick that meets its end are one step. -/
theorem exec_end_rows {endRow : Instr} (howes : OwesTick s c) (hend : exec endRow s = .next (s.tickChan c))
    (hloop : (s.chan c).regs.control.getLsbD 6 = ctl.getLsbD 6) :
    ∀ i ∈ [endRow, .rcTick c, .volScale c, fetchRow (formatOf (s.chan c).regs.control) c ctl],
      exec i s = .next (s.tickChan c) := by
  obtain ⟨htick, hscale⟩ := exec_tick s howes
  simp only [List.mem_cons, List.not_mem_nil, or_false, forall_eq_or_imp, forall_eq]
  exact ⟨hend, htick, hscale, exec_fetchRow_of_owes howes rfl hloop⟩

end

/-- Settles O24: the rows are one tick (`exec_tick_rows`), the tick is that of `tick_of_no_end`, and its sample that of
`fetched_toInt`. -/
theorem fetchDecodesAndAdvances : Obligations.FetchDecodesAndAdvances := by
  unfold Obligations.FetchDecodesAndAdvances
  rintro s c ctl fmt howes rfl hloop hmem hend i hi
  refine ⟨_, exec_tick_rows howes rfl hloop i hi, setChan_onlyChannel .., ?_⟩
  rw [State.tickChan, chan_setChan_same, tick_of_no_end _ _ hend]
  exact ⟨fetched_toInt _ _ hmem, rfl, rfl, howes.2.1, rfl⟩

/-- Settles O25: as in bounds, but the sample is silence (`fetched_of_beyond`). -/
theorem fetchOutOfBoundsIsSilent : Obligations.FetchOutOfBoundsIsSilent := by
  unfold Obligations.FetchOutOfBoundsIsSilent
  rintro s c ctl fmt howes rfl hloop hmem hend i hi
  refine ⟨_, exec_tick_rows howes rfl hloop i hi, setChan_onlyChannel .., ?_⟩
  rw [State.tickChan, chan_setChan_same, tick_of_no_end _ _ hend, fetched_of_beyond _ _ hmem]

/-- Settles O26: the rows are one tick (`exec_end_rows`), that of `tick_of_loop`; its sample is the datum in bounds, and
silence out of bounds. -/
theorem fetchLoopsAtEnd : Obligations.FetchLoopsAtEnd := by
  unfold Obligations.FetchLoopsAtEnd
  intro s c ctl howes hend hloop hctl i hi
  have hrow := (exec_end_of_owes howes).1 ((endsIn_eq_some_iff _ _).2 ⟨hend, hloop⟩)
  refine ⟨_, exec_end_rows howes hrow (hloop.trans hctl.symm) i hi, setChan_onlyChannel .., ?_⟩
  rw [State.tickChan, chan_setChan_same, tick_of_loop _ _ hend hloop]
  refine ⟨rfl, ?_, rfl, howes.2.1, rfl⟩
  change ((s.chan c).fetched s.params s.mem).toInt = _
  split
  case isTrue hmem => exact fetched_toInt _ _ hmem
  case isFalse hmem =>
    rw [fetched_of_beyond _ _ (Nat.not_le.1 hmem)]
    rfl

/-- Settles O27: the rows are one tick (`exec_end_rows`), that of `tick_of_stop`, which leaves the accumulator at 0, so
`CH.EMIT` is enabled and emits the zeroed sample. -/
theorem fetchStopsAtEnd : Obligations.FetchStopsAtEnd := by
  unfold Obligations.FetchStopsAtEnd
  intro s c ctl howes hone hend hloop hctl i hi
  have hrow := (exec_end_of_owes howes).2 ((endsIn_eq_some_iff _ _).2 ⟨hend, hloop⟩)
  have htick := tick_of_stop s.params s.mem hend hloop
  have hemit : OwesEmit (s.tickChan c) c := by
    refine ⟨howes.1, ?_, ?_⟩ <;> rw [State.tickChan, chan_setChan_same]
    · rw [tick_phase, howes.2.1]
    · rw [htick]
      exact hone
  refine ⟨_, exec_end_rows howes hrow (hloop.trans hctl.symm) i hi, setChan_onlyChannel .., ?_, _,
    exec_chEmit _ hemit, ?_⟩
  · rw [State.tickChan, chan_setChan_same, htick]
  · rw [chan_setChan_same, State.tickChan, chan_setChan_same, htick]
    rfl

end Sys2Proof.Machine
end

section
/-! Whole output samples of a channel (spec/40_rate_converter.md R123 to R126, spec/41_dma_channel_engine.md R140, R154):
`CH.STEP` as its atomic steps, and any number of output samples one after another. -/

namespace Sys2Proof.Machine

/-! ## One operation of a channel, repeated -/

/-- An operation that applies `f` to its channel, taken `n` times. -/
theorem execAll_replicate {s : State} {c : Chan} {i : Instr} {f : Channel → Channel} {n : Nat} {ch : Channel}
    (h : ∀ j < n, exec i (s.setChan c (f^[j] ch)) = .next (s.setChan c (f^[j + 1] ch))) :
    execAll (List.replicate n i) (s.setChan c ch) = .next (s.setChan c (f^[n] ch)) := by
  induction n generalizing ch with
  | zero => rfl
  | succ n ih =>
    refine (execAll_cons_of_next (h 0 (Nat.succ_pos n)) _).trans ?_
    exact ih fun j hj => h (j + 1) (Nat.succ_lt_succ hj)

/-! ## The ticks of one output sample -/

section
variable (p : Params) (m : Memory)

/-- The ticks of an output sample are `RC.TICK` repeated, each while the accumulator has reached the threshold (R123). -/
theorem ticks_eq_iterate (fuel : Nat) (ch : Channel) :
    ∃ k, ch.ticks p m fuel = (Channel.tick p m)^[k] ch ∧ ∀ j < k, accOne p ≤ ((Channel.tick p m)^[j] ch).accn := by
  induction fuel generalizing ch with
  | zero => exact ⟨0, rfl, nofun⟩
  | succ fuel ih =>
    rw [Channel.ticks]
    split
    case isTrue hhigh =>
      obtain ⟨k, hk, hall⟩ := ih (ch.tick p m)
      refine ⟨k + 1, hk, fun j hj => ?_⟩
      cases j with
      | zero => exact hhigh
      | succ j => exact hall j (Nat.lt_of_succ_lt_succ hj)
    case isFalse => exact ⟨0, rfl, nofun⟩

theorem tick_iterate_phase (k : Nat) (ch : Channel) : ((Channel.tick p m)^[k] ch).phase = ch.phase := by
  induction k with
  | zero => rfl
  | succ k ih => rw [Function.iterate_succ_apply', tick_phase, ih]

/-- An output sample of a PLAYING channel: `RC.ADD`, the ticks, `CH.EMIT` (R140). -/
theorem step_of_playing {ch : Channel} (h : stopped ch.regs.control = false) :
    ch.step p m = ((ch.rcAdd p).ticks p m ((ch.rcAdd p).accn / accOne p)).emit := by
  rw [Channel.step, h]
  rfl

/-- An output sample ends READY and emits the held sample (R124, R140, R142). -/
theorem step_phase_out (ch : Channel) :
    (ch.step p m).phase = .ready ∧ (ch.step p m).out = ch.out ++ [(ch.step p m).last] := by
  cases hstop : stopped ch.regs.control
  case true =>
    rw [step_of_stopped p m hstop]
    exact ⟨rfl, rfl⟩
  case false =>
    rw [step_of_playing p m hstop]
    obtain ⟨-, hout, -⟩ := ticks_keep p m (ch.rcAdd p) ((ch.rcAdd p).accn / accOne p)
    exact ⟨rfl, congrArg (· ++ _) hout⟩

theorem step_accn_lt (hone : 0 < accOne p) (ch : Channel) : (ch.step p m).accn < accOne p := by
  rw [Channel.step]
  split
  · exact hone
  · exact finish_accn_lt p m _ hone

theorem step_iterate_phase_out (n : Nat) {ch : Channel} (h : ch.phase = .ready) :
    ((Channel.step p m)^[n] ch).phase = .ready ∧ ((Channel.step p m)^[n] ch).out.length = ch.out.length + n := by
  induction n with
  | zero => exact ⟨h, rfl⟩
  | succ n ih =>
    rw [Function.iterate_succ_apply']
    obtain ⟨hphase, hout⟩ := step_phase_out p m ((Channel.step p m)^[n] ch)
    refine ⟨hphase, ?_⟩
    rw [hout, List.length_append, ih.2]
    rfl

end

/-! ## CH.STEP as its atomic steps -/

section
variable {s : State} {c : Chan}

/-- `RC.TICK` repeated while it is enabled. -/
theorem execAll_replicate_tick {ch : Channel} {k : Nat} (hren : s.params.renderEnabled = true)
    (hphase : ch.phase = .ticking) (h : ∀ j < k, accOne s.params ≤ ((Channel.tick s.params s.mem)^[j] ch).accn) :
    execAll (List.replicate k (.rcTick c)) (s.setChan c ch)
        = .next (s.setChan c ((Channel.tick s.params s.mem)^[k] ch))
    ∧ ∀ j < k, OwesTick (s.setChan c ((Channel.tick s.params s.mem)^[j] ch)) c := by
  have howes : ∀ j < k, OwesTick (s.setChan c ((Channel.tick s.params s.mem)^[j] ch)) c := fun j hj =>
    ⟨hren, by simp [tick_iterate_phase, hphase], by simpa using h j hj⟩
  refine ⟨execAll_replicate fun j hj => ?_, howes⟩
  rw [(exec_tick _ (howes j hj)).1, State.tickChan, chan_setChan_same, setChan_setChan_same,
    Function.iterate_succ_apply']
  rfl

/-- `CH.STEP` repeated, while the pass owes the samples. -/
theorem execAll_replicate_chStep {n : Nat} (hren : s.params.renderEnabled = true) (hready : (s.chan c).phase = .ready)
    (hlen : (s.chan c).out.length + n ≤ s.framesLeft) :
    execAll (List.replicate n (.chStep c)) s
      = .next (s.setChan c ((Channel.step s.params s.mem)^[n] (s.chan c))) := by
  conv_lhs => rw [← setChan_chan_self s c]
  refine execAll_replicate fun j hj => ?_
  obtain ⟨hphase, hout⟩ := step_iterate_phase_out s.params s.mem j hready
  have howes : OwesSample (s.setChan c ((Channel.step s.params s.mem)^[j] (s.chan c))) c := by
    refine ⟨hren, by rw [chan_setChan_same, hphase], ?_⟩
    rw [chan_setChan_same, hout, setChan_framesLeft]
    omega
  rw [exec_chStep howes, chan_setChan_same, setChan_setChan_same, Function.iterate_succ_apply']
  rfl

/-- `CH.STEP` of a PLAYING channel is `CH.BEGIN`, enabled ticks, and `CH.EMIT` (R140). -/
theorem chStep_atomic_of_playing (hone : 0 < accOne s.params) (howes : OwesSample s c)
    (hplay : stopped (s.chan c).regs.control = false) :
    ∃ (k : Nat) (u : State), execAll (.chBegin c :: List.replicate k (.rcTick c)) s = .next u
      ∧ OwesEmit u c ∧ exec (.chEmit c) u = .next (s.setChan c ((s.chan c).step s.params s.mem))
      ∧ ∀ j < k, ∃ v, execAll (.chBegin c :: List.replicate j (.rcTick c)) s = .next v ∧ OwesTick v c := by
  have hbegin := exec_chBegin s howes
  rw [beginChan_of_playing hplay] at hbegin
  obtain ⟨k, hk, hhigh⟩ := ticks_eq_iterate s.params s.mem
    (((s.chan c).rcAdd s.params).accn / accOne s.params) ((s.chan c).rcAdd s.params)
  have hrun := fun j (hj : j ≤ k) => execAll_replicate_tick (c := c) (k := j) howes.1
    (rfl : ((s.chan c).rcAdd s.params).phase = .ticking) fun l hl => hhigh l (hl.trans_le hj)
  have hlow := step_accn_lt s.params s.mem hone (s.chan c)
  rw [step_of_playing _ _ hplay, hk] at hlow ⊢
  have hemit : OwesEmit (s.setChan c ((Channel.tick s.params s.mem)^[k] ((s.chan c).rcAdd s.params))) c := by
    refine ⟨howes.1, ?_, ?_⟩ <;> rw [chan_setChan_same]
    · rw [tick_iterate_phase]
      rfl
    · exact hlow
  refine ⟨k, _, (execAll_cons_of_next hbegin _).trans (hrun k le_rfl).1, hemit, ?_, fun j hj => ⟨_,
    (execAll_cons_of_next hbegin _).trans (hrun j hj.le).1, (hrun k le_rfl).2 j hj⟩⟩
  rw [exec_chEmit _ hemit, chan_setChan_same, setChan_setChan_same]

end

/-- Settles O23: the sample is that of `step_phase_out`; a STOPPED channel's `CH.STEP` and `CH.BEGIN` are both `CH.IDLE`,
a PLAYING one's is `chStep_atomic_of_playing`. -/
theorem chStepIsItsAtomicSteps : Obligations.ChStepIsItsAtomicSteps := by
  unfold Obligations.ChStepIsItsAtomicSteps
  intro s c hp howes
  have hone := accOne_pos s.params hp.2.1
  obtain ⟨hphase, hout⟩ := step_phase_out s.params s.mem (s.chan c)
  refine ⟨_, exec_chStep howes, setChan_onlyChannel .., ?_, ?_, ?_, fun h => ?stopped, fun hen hstp => ?playing⟩
  · rwa [chan_setChan_same]
  · rw [chan_setChan_same]
    exact step_accn_lt _ _ hone _
  · rwa [chan_setChan_same]
  case stopped =>
    have hstop := (stopped_iff _).2 h
    rw [exec_chBegin s howes, beginChan_of_stopped hstop, step_of_stopped _ _ hstop]
  case playing => exact chStep_atomic_of_playing hone howes (stopped_eq_false hen hstp)

/-! ## Output samples of a channel that holds -/

/-- Settles O21: at rate 0 `RC.ADD` adds nothing, so no tick occurs and `CH.EMIT` emits the held sample. -/
theorem rateZeroHoldsTheSample : Obligations.RateZeroHoldsTheSample := by
  unfold Obligations.RateZeroHoldsTheSample
  intro s c howes hlow hen hstp hrate
  refine ⟨_, exec_chStep howes, setChan_onlyChannel .., ?_⟩
  have hadd : ((s.chan c).rcAdd s.params).accn = (s.chan c).accn := by simp [Channel.rcAdd, deltaN, hrate]
  rw [chan_setChan_same, step_of_playing _ _ (stopped_eq_false hen hstp), hadd, Nat.div_eq_of_lt hlow, Channel.ticks,
    Channel.emit, ← howes.2.1, hadd]
  rfl

/-- Any number of output samples of a channel with the stopped flag are silence (R154). -/
theorem step_iterate_of_stp (p : Params) (m : Memory) {ch : Channel} (h : ch.regs.control.getLsbD 3 = true) (n : Nat) :
    ((Channel.step p m)^[n] ch).regs = ch.regs
    ∧ ((Channel.step p m)^[n] ch).out = ch.out ++ List.replicate n 0 := by
  induction n with
  | zero => exact ⟨rfl, (List.append_nil _).symm⟩
  | succ n ih =>
    obtain ⟨hregs, hout⟩ := ih
    have hstop : stopped ((Channel.step p m)^[n] ch).regs.control = true := (stopped_iff _).2 (.inr (by rw [hregs, h]))
    rw [Function.iterate_succ_apply', step_of_stopped p m hstop]
    exact ⟨hregs, by simp [Channel.idle, hout, List.replicate_succ']⟩

/-- Settles O28: `CH.STEP` repeated, each time `CH.IDLE` (`step_iterate_of_stp`). -/
theorem stoppedFlagMeansContinuousSilence : Obligations.StoppedFlagMeansContinuousSilence := by
  unfold Obligations.StoppedFlagMeansContinuousSilence
  intro s c n hren hready hstp hlen
  refine ⟨_, execAll_replicate_chStep hren hready hlen, setChan_onlyChannel .., ?_⟩
  rw [chan_setChan_same]
  exact step_iterate_of_stp _ _ hstp n

/-! ## Output samples of a channel that cannot stop (R125) -/

/-- The format of a PLAYING class is that of the control byte (R94). -/
theorem formatOf_of_class {ctl : Byte} {f : Format} (h : ctrlClass ctl = .play f) : formatOf ctl = f := by
  rw [ctrlClass] at h
  split at h
  case isTrue => cases h
  case isFalse =>
    split at h
    case isTrue => cases h
    case isFalse => exact CtrlClass.play.inj h

/-- The channels of `P` tick on: each tick keeps `P` and takes exactly one `ACC_ONE`, so none stops the channel. -/
def TicksOn (p : Params) (m : Memory) (P : Channel → Prop) : Prop :=
  ∀ ch, P ch → P (ch.tick p m) ∧ (ch.tick p m).accn = ch.accn - accOne p

section
variable {p : Params} {m : Memory} {P : Channel → Prop}

/-- The ticks of one output sample are as many as `ACC_ONE` goes into the accumulator, and leave the remainder. -/
theorem ticks_of_ticksOn (hone : 0 < accOne p) (hP : TicksOn p m P) (k : Nat) {ch : Channel} (hch : P ch)
    (hk : ch.accn / accOne p = k) :
    ch.ticks p m k = (Channel.tick p m)^[k] ch ∧ P ((Channel.tick p m)^[k] ch)
    ∧ ((Channel.tick p m)^[k] ch).accn = ch.accn % accOne p := by
  induction k generalizing ch with
  | zero => exact ⟨rfl, hch, (Nat.mod_eq_of_lt ((Nat.div_eq_zero_iff_lt hone).1 hk)).symm⟩
  | succ k ih =>
    have hhigh : accOne p ≤ ch.accn := Nat.le_of_not_lt fun hlt => by rw [Nat.div_eq_of_lt hlt] at hk; cases hk
    obtain ⟨hnext, haccn⟩ := hP ch hch
    have hdiv : (ch.tick p m).accn / accOne p = k := by
      rw [Nat.div_eq_sub_div hone hhigh] at hk
      rw [haccn]
      exact Nat.succ.inj hk
    obtain ⟨hticks, hkeep, hmod⟩ := ih hnext hdiv
    rw [Channel.ticks, if_pos hhigh, Function.iterate_succ_apply, hmod, haccn, ← Nat.mod_eq_sub_mod hhigh]
    exact ⟨hticks, hkeep, rfl⟩

/-- One output sample of a PLAYING channel that ticks on. -/
theorem step_of_ticksOn (hone : 0 < accOne p) (hP : TicksOn p m P) {ch : Channel}
    (hplay : stopped ch.regs.control = false) (hch : P (ch.rcAdd p)) :
    P ((Channel.tick p m)^[(ch.accn + deltaN p ch.regs.rateIncrement) / accOne p] (ch.rcAdd p))
    ∧ (ch.step p m).regs
      = ((Channel.tick p m)^[(ch.accn + deltaN p ch.regs.rateIncrement) / accOne p] (ch.rcAdd p)).regs
    ∧ (ch.step p m).accn = (ch.accn + deltaN p ch.regs.rateIncrement) % accOne p := by
  obtain ⟨hticks, hkeep, hmod⟩ := ticks_of_ticksOn hone hP _ hch rfl
  rw [step_of_playing p m hplay, hticks]
  exact ⟨hkeep, rfl, hmod⟩

end

/-- The remainder and the count of `n` additions go on from those of the first. -/
theorem mod_div_add (a n d : Nat) {one : Nat} (hone : 0 < one) :
    ((a + n * d) % one + d) % one = (a + (n + 1) * d) % one
    ∧ (a + n * d) / one + ((a + n * d) % one + d) / one = (a + (n + 1) * d) / one := by
  have hsum : a + (n + 1) * d = one * ((a + n * d) / one) + ((a + n * d) % one + d) := by
    have := Nat.div_add_mod (a + n * d) one
    rw [Nat.succ_mul]
    omega
  rw [hsum, Nat.mul_add_mod, Nat.mul_add_div hone]
  exact ⟨rfl, rfl⟩

section
variable (p : Params) (m : Memory)

/-- With `LOOP = 1` no fetch stops the channel: it loops at its end, and advances otherwise (R151). -/
theorem ticksOn_of_loop {ctl : Byte} (hloop : ctl.getLsbD 6 = true) (rate : BitVec 24) :
    TicksOn p m fun ch => ch.regs.control = ctl ∧ ch.regs.rateIncrement = rate := by
  rintro ch ⟨rfl, rfl⟩
  by_cases hend : ch.MeetsEnd
  · rw [tick_of_loop p m hend hloop]
    exact ⟨⟨rfl, rfl⟩, rfl⟩
  · rw [tick_of_no_end p m hend]
    exact ⟨⟨rfl, rfl⟩, rfl⟩

/-- The accumulator after `n` output samples of a PLAYING channel with `LOOP = 1` (R125). -/
theorem step_iterate_of_loop (hone : 0 < accOne p) {ch : Channel} (hplay : stopped ch.regs.control = false)
    (hloop : ch.regs.control.getLsbD 6 = true) (hlow : ch.accn < accOne p) (n : Nat) :
    (((Channel.step p m)^[n] ch).regs.control = ch.regs.control
      ∧ ((Channel.step p m)^[n] ch).regs.rateIncrement = ch.regs.rateIncrement)
    ∧ ((Channel.step p m)^[n] ch).accn = (ch.accn + n * deltaN p ch.regs.rateIncrement) % accOne p := by
  induction n with
  | zero => exact ⟨⟨rfl, rfl⟩, by simp [Nat.mod_eq_of_lt hlow]⟩
  | succ n ih =>
    obtain ⟨⟨hctl, hrate⟩, haccn⟩ := ih
    obtain ⟨hkeep, hregs, hnext⟩ := step_of_ticksOn hone (ticksOn_of_loop p m hloop ch.regs.rateIncrement)
      (by rw [hctl]; exact hplay) ⟨hctl, hrate⟩
    rw [Function.iterate_succ_apply', hregs, hnext, hrate, haccn]
    rw [hrate, haccn] at hkeep
    exact ⟨hkeep, (mod_div_add _ n _ hone).1⟩

/-- A 16-bit channel with the registers of `r` but the pointer, which differs in parity from the end address (R334). -/
def Unmatched (r : RegBlock) (ch : Channel) : Prop :=
  ch.regs = { r with currentAddress := ch.regs.currentAddress }
  ∧ ch.regs.currentAddress.toNat % 2 ≠ r.endAddress.toNat % 2

variable {r : RegBlock}

/-- Such a channel never meets its end: the advanced address has the parity of the pointer. -/
theorem tick_of_unmatched (hfmt : formatOf r.control = .w16) {ch : Channel} (h : Unmatched r ch) :
    (ch.tick p m).regs = { r with currentAddress := BitVec.ofNat 24 (ch.regs.currentAddress.toNat + 2) }
    ∧ (ch.tick p m).accn = ch.accn - accOne p := by
  obtain ⟨hregs, hparity⟩ := h
  have hctl : formatOf ch.regs.control = .w16 := by rw [hregs, ← hfmt]
  have hendReg : ch.regs.endAddress = r.endAddress := by rw [hregs]
  have hstep : stepBytes (formatOf ch.regs.control) = 2 := by rw [hctl]; rfl
  rw [tick_of_no_end p m (by rw [Channel.MeetsEnd, hstep, hendReg]; omega), Channel.advanced, hstep]
  refine ⟨?_, rfl⟩
  rw [hregs]

theorem ticksOn_of_unmatched (hfmt : formatOf r.control = .w16) : TicksOn p m (Unmatched r) := by
  intro ch h
  obtain ⟨hregs, haccn⟩ := tick_of_unmatched p m hfmt h
  refine ⟨⟨by rw [hregs], ?_⟩, haccn⟩
  have hparity := h.2
  rw [hregs, BitVec.toNat_ofNat]
  omega

/-- Going on from an address that was reduced modulo 2^24. -/
theorem ofNat_toNat_add (x y : Nat) : BitVec.ofNat 24 ((BitVec.ofNat 24 x).toNat + y) = BitVec.ofNat 24 (x + y) := by
  rw [BitVec.ofNat_add, BitVec.ofNat_toNat, BitVec.setWidth_eq, BitVec.ofNat_add]

theorem tick_iterate_of_unmatched (hfmt : formatOf r.control = .w16) {ch : Channel} (h : Unmatched r ch) (k : Nat) :
    ((Channel.tick p m)^[k] ch).regs
      = { r with currentAddress := BitVec.ofNat 24 (ch.regs.currentAddress.toNat + 2 * k) } := by
  have hall : ∀ k, Unmatched r ((Channel.tick p m)^[k] ch) := fun k => by
    induction k with
    | zero => exact h
    | succ k ih =>
      rw [Function.iterate_succ_apply']
      exact (ticksOn_of_unmatched p m hfmt _ ih).1
  induction k with
  | zero =>
    rw [Nat.mul_zero, Nat.add_zero, BitVec.ofNat_toNat, BitVec.setWidth_eq]
    exact h.1
  | succ k ih =>
    rw [Function.iterate_succ_apply', (tick_of_unmatched p m hfmt (hall k)).1, ih]
    dsimp only
    rw [ofNat_toNat_add, Nat.add_assoc, Nat.mul_succ]

/-- Registers and accumulator after `n` output samples of a PLAYING channel that never meets its end (R125, R334). -/
theorem step_iterate_of_unmatched (hone : 0 < accOne p) {ch : Channel} (hfmt : formatOf ch.regs.control = .w16)
    (hplay : stopped ch.regs.control = false) (hlow : ch.accn < accOne p)
    (hparity : ch.regs.currentAddress.toNat % 2 ≠ ch.regs.endAddress.toNat % 2) (n : Nat) :
    ((Channel.step p m)^[n] ch).regs = { ch.regs with currentAddress := BitVec.ofNat 24 (ch.regs.currentAddress.toNat
      + 2 * ((ch.accn + n * deltaN p ch.regs.rateIncrement) / accOne p)) }
    ∧ ((Channel.step p m)^[n] ch).accn = (ch.accn + n * deltaN p ch.regs.rateIncrement) % accOne p := by
  induction n with
  | zero => simp [Nat.mod_eq_of_lt hlow, Nat.div_eq_of_lt hlow]
  | succ n ih =>
    obtain ⟨hregs, haccn⟩ := ih
    have hadd : (((Channel.step p m)^[n] ch).rcAdd p).regs = _ := hregs
    have hunmatched : Unmatched ch.regs (((Channel.step p m)^[n] ch).rcAdd p) := by
      refine ⟨by rw [hadd], ?_⟩
      rw [hadd, BitVec.toNat_ofNat]
      omega
    obtain ⟨-, hregs', hnext⟩ := step_of_ticksOn hone (ticksOn_of_unmatched p m hfmt)
      (by rw [hregs]; exact hplay) hunmatched
    obtain ⟨hmod, hdiv⟩ := mod_div_add ch.accn n (deltaN p ch.regs.rateIncrement) hone
    rw [Function.iterate_succ_apply', hnext, hregs', tick_iterate_of_unmatched p m hfmt hunmatched, hadd, hregs,
      haccn]
    dsimp only
    rw [hmod, ofNat_toNat_add, Nat.add_assoc, ← Nat.mul_add, hdiv]
    exact ⟨rfl, rfl⟩

end

/-- Settles O19: `CH.STEP` repeated, its accumulator that of `step_iterate_of_loop`. -/
theorem accumulatorNeverDrifts : Obligations.AccumulatorNeverDrifts := by
  unfold Obligations.AccumulatorNeverDrifts
  intro s c n hp hren hready hlow hen hstp hloop hlen
  have hone := accOne_pos s.params hp.2.1
  obtain ⟨hphase, hout⟩ := step_iterate_phase_out s.params s.mem n hready
  obtain ⟨⟨hctl, -⟩, haccn⟩ := step_iterate_of_loop s.params s.mem hone (stopped_eq_false hen hstp) hloop hlow n
  refine ⟨_, execAll_replicate_chStep hren hready hlen, setChan_onlyChannel .., ?_⟩
  rw [chan_setChan_same]
  exact ⟨haccn, hphase, hctl, hout⟩

/-- Settles O20: `CH.STEP` repeated, its registers those of `step_iterate_of_unmatched`. -/
theorem unmatchedEndPlaysOn : Obligations.UnmatchedEndPlaysOn := by
  unfold Obligations.UnmatchedEndPlaysOn
  intro s c n hp hren hready hlow hmask hparity hlen
  have hone := accOne_pos s.params hp.2.1
  have hplay := (playing_of_mask (f := .w16) hmask c).1
  have hfmt := formatOf_of_class ((ctrlClass_play_iff _ .w16).2 hmask)
  refine ⟨_, execAll_replicate_chStep hren hready hlen, setChan_onlyChannel .., ?_⟩
  rw [chan_setChan_same]
  exact (step_iterate_of_unmatched s.params s.mem hone hfmt hplay hlow hparity n).1

end Sys2Proof.Machine
end

section
/-! Render passes (spec/46_host_ops_and_render_pass.md R270, R271; logs 2 and 12). The block's own steps do not see where
the pass boundary lies, only whether a frame is owed: the same state with another pass takes the same step. -/

namespace Sys2Proof.Machine

/-! ## The pass of a state -/

/-- A pass and its waiting requests: the frames still to output, and those asked for after them (log 12). -/
abbrev Pass := Nat × List Nat

/-- The pass of the state. -/
def State.pass (s : State) : Pass := (s.framesLeft, s.requests)

/-- The state with another pass. -/
def State.withPass (s : State) (pass : Pass) : State := { s with framesLeft := pass.1, requests := pass.2 }

/-- The pass after a frame, as `State.passAdvance` has it. -/
def passNext (pass : Pass) : Pass :=
  if pass.1 ≤ 1 then (pass.2.headD 0, pass.2.tail) else (pass.1 - 1, pass.2)

/-- The frames asked for in all. -/
def passTotal (pass : Pass) : Nat := pass.1 + pass.2.sum

/-- No request of 0 frames waits, and none waits without a pass (R270). -/
def PassWf (pass : Pass) : Prop := (∀ n ∈ pass.2, 0 < n) ∧ (pass.1 = 0 → pass.2 = [])

theorem passWf_nil (n : Nat) : PassWf (n, []) := ⟨nofun, fun _ => rfl⟩

theorem passWf_of_inv {s : State} (h : StateInv s) : PassWf s.pass := by
  obtain ⟨-, -, -, -, -, -, -, -, -, -, -, -, hreq, hnone, -⟩ := h
  exact ⟨hreq, hnone⟩

section
variable {pass : Pass}

/-- A pass without frames has nothing to come. -/
theorem eq_nil_of_total_eq_zero (h : PassWf pass) (h0 : passTotal pass = 0) : pass = (0, []) := by
  obtain ⟨n, reqs⟩ := pass
  obtain rfl : n = 0 := Nat.eq_zero_of_add_eq_zero_right h0
  exact congrArg (Prod.mk 0) (h.2 rfl)

theorem total_eq_zero_of_left (h : PassWf pass) (h0 : pass.1 = 0) : passTotal pass = 0 := by
  rw [passTotal, h0, h.2 h0]
  rfl

/-- A frame takes one off the total and keeps the pass well-formed. -/
theorem passNext_spec (h : PassWf pass) (hpos : 0 < pass.1) :
    PassWf (passNext pass) ∧ passTotal (passNext pass) + 1 = passTotal pass := by
  obtain ⟨n, reqs⟩ := pass
  obtain ⟨hreqs, -⟩ := h
  dsimp only at hpos hreqs
  rw [passNext]
  split
  case isTrue hle =>
    cases reqs with
    | nil =>
      refine ⟨passWf_nil _, ?_⟩
      simp only [passTotal, List.headD_nil, List.tail_nil, List.sum_nil] at hle ⊢
      omega
    | cons k rest =>
      obtain ⟨hk, hrest⟩ := List.forall_mem_cons.1 hreqs
      refine ⟨⟨hrest, fun h0 => absurd h0 (Nat.pos_iff_ne_zero.1 hk)⟩, ?_⟩
      simp only [passTotal, List.headD_cons, List.tail_cons, List.sum_cons] at hle ⊢
      omega
  case isFalse hgt =>
    dsimp only at hgt ⊢
    refine ⟨⟨hreqs, fun h0 => by dsimp only at h0; omega⟩, ?_⟩
    simp only [passTotal]
    omega

end

theorem passNext_of_no_request (n : Nat) : passNext (n, []) = (n - 1, []) := by
  rw [passNext]
  split
  case isTrue hle => exact congrArg (·, []) (Nat.sub_eq_zero_of_le hle).symm
  case isFalse => rfl

theorem passAdvance_withPass (s : State) (pass : Pass) : (s.withPass pass).passAdvance = s.withPass (passNext pass) := by
  obtain ⟨n, reqs⟩ := pass
  unfold State.passAdvance passNext
  change (if n ≤ 1 then _ else _) = s.withPass (if n ≤ 1 then _ else _)
  split
  case isTrue => cases reqs <;> rfl
  case isFalse => rfl

/-! ## The work towards the next frame -/

/-- Own steps that the channel still takes at most towards its sample of the next frame (R140). -/
def Channel.work (p : Params) (ch : Channel) : Nat :=
  match ch.phase with
  | .ticking => ch.accn / accOne p + 1
  | .ready => if ch.out.isEmpty then (ch.accn + deltaN p ch.regs.rateIncrement) / accOne p + 2 else 0

/-- Own steps that the block still takes at most towards its next frame: those of the channels, and one for each chip
source without a sample. -/
def State.work (s : State) : Nat :=
  (s.chans.c0.work s.params + s.chans.c1.work s.params + s.chans.c2.work s.params + s.chans.c3.work s.params)
    + s.chipQueues.countP List.isEmpty

section
variable {p : Params} {ch : Channel}

theorem work_begin_lt (hready : ch.phase = .ready) (hout : ch.out.isEmpty = true) :
    (ch.begin p).work p < ch.work p := by
  have hwork : ch.work p = (ch.accn + deltaN p ch.regs.rateIncrement) / accOne p + 2 := by
    simp [Channel.work, hready, hout]
  rw [hwork, Channel.begin]
  split
  case isTrue =>
    have hidle : ch.idle.work p = 0 := by simp [Channel.work, Channel.idle]
    rw [hidle]
    exact Nat.succ_pos _
  case isFalse => exact Nat.lt_succ_self _

theorem work_tick_lt (m : Memory) (hone : 0 < accOne p) (hticking : ch.phase = .ticking) (hhigh : accOne p ≤ ch.accn) :
    (ch.tick p m).work p < ch.work p := by
  have hle := Nat.div_le_div_right (c := accOne p) (tick_accn_le p m ch)
  have hdiv := Nat.div_eq_sub_div hone hhigh
  simp only [Channel.work, tick_phase, hticking]
  omega

theorem work_emit_lt (hticking : ch.phase = .ticking) : ch.emit.work p < ch.work p := by
  have hemit : ch.emit.work p = 0 := by simp [Channel.work, Channel.emit]
  rw [hemit]
  simp [Channel.work, hticking]

end

theorem work_setChan_lt {s : State} {c : Chan} {ch : Channel} (h : ch.work s.params < (s.chan c).work s.params) :
    (s.setChan c ch).work < s.work := by
  cases c <;> simp only [State.work, State.setChan, PerChan.set, State.chan, PerChan.get] at h ⊢ <;> omega

/-! ## The block's own next step -/

/-- The next operation of a channel towards its sample, on any pass that owes a frame. -/
theorem exec_ownOfChan {s : State} {c : Chan} {i : Instr} (hren : s.params.renderEnabled = true)
    (hone : 0 < accOne s.params) (h : s.ownOfChan c = some i) :
    ∃ ch, ch.work s.params < (s.chan c).work s.params
      ∧ ∀ pass : Pass, 0 < pass.1 → exec i (s.withPass pass) = .next ((s.setChan c ch).withPass pass) := by
  rw [State.ownOfChan] at h
  split at h
  case h_1 hticking =>
    split at h
    case isTrue hhigh =>
      cases h
      exact ⟨_, work_tick_lt s.mem hone hticking hhigh, fun pass _ =>
        (exec_tick (s.withPass pass) ⟨hren, hticking, hhigh⟩).1⟩
    case isFalse hlow =>
      cases h
      exact ⟨_, work_emit_lt hticking, fun pass _ =>
        exec_chEmit (s.withPass pass) ⟨hren, hticking, Nat.lt_of_not_le hlow⟩⟩
  case h_2 hready =>
    split at h
    case isTrue hout =>
      cases h
      refine ⟨_, work_begin_lt hready hout, fun pass hpos => exec_chBegin (s.withPass pass) ⟨hren, hready, ?_⟩⟩
      change (s.chan c).out.length < pass.1
      rw [List.isEmpty_iff.1 hout]
      exact hpos
    case isFalse => cases h

/-- A channel with nothing to do has its sample. -/
theorem out_ne_nil_of_ownOfChan {s : State} {c : Chan} (h : s.ownOfChan c = none) : (s.chan c).out ≠ [] := by
  rw [State.ownOfChan] at h
  split at h
  case h_1 => split at h <;> cases h
  case h_2 =>
    split at h
    case isTrue => cases h
    case isFalse hout => exact fun hnil => hout (by rw [hnil]; rfl)

/-- The first chip source without a sample. -/
theorem firstEmpty_eq_some {k j : Nat} {qs : List (List Sample)} (h : firstEmpty k qs = some j) :
    ∃ pre post, qs = pre ++ [] :: post ∧ j = k + pre.length := by
  induction qs generalizing k with
  | nil => cases h
  | cons q rest ih =>
    rw [firstEmpty] at h
    split at h
    case isTrue hq =>
      cases h
      exact ⟨[], rest, by rw [List.isEmpty_iff.1 hq]; rfl, rfl⟩
    case isFalse =>
      obtain ⟨pre, post, rfl, rfl⟩ := ih h
      exact ⟨q :: pre, post, rfl, by rw [List.length_cons]; omega⟩

theorem firstEmpty_eq_none {k : Nat} {qs : List (List Sample)} (h : firstEmpty k qs = none) : ∀ q ∈ qs, q ≠ [] := by
  induction qs generalizing k with
  | nil => nofun
  | cons q rest ih =>
    rw [firstEmpty] at h
    split at h
    case isTrue => cases h
    case isFalse hq => exact List.forall_mem_cons.2 ⟨fun hnil => hq (by rw [hnil]; rfl), ih h⟩

/-- The draw of the first chip source without a sample, on any pass that owes a frame. -/
theorem exec_ownDraw {s : State} {k : Nat} (hren : s.params.renderEnabled = true)
    (h : firstEmpty 0 s.chipQueues = some k) (x : Sample) :
    (s.supply k x).work < s.work
    ∧ ∀ pass : Pass, 0 < pass.1 → exec (.srcIn k x) (s.withPass pass) = .next ((s.supply k x).withPass pass) := by
  obtain ⟨pre, post, hqs, hk⟩ := firstEmpty_eq_some h
  rw [Nat.zero_add] at hk
  constructor
  · have hmod : (s.supply k x).chipQueues = pre ++ [x] :: post := by
      rw [supply_chipQueues, hqs, hk, List.modify_eq_take_drop]
      simp
    simp [State.work, hmod, hqs]
  · intro pass hpos
    refine exec_srcIn (s := s.withPass pass) (q := []) ⟨hren, ?_, hpos⟩ x
    change s.chipQueues[k]? = some []
    rw [hqs, hk]
    simp

/-- What a frame leaves, but for the pass. -/
def State.frameOf (s : State) : State :=
  (((s.sumBuses.applyMatrix).clipSide .left).clipSide .right).outputFrame

theorem clipSide_withPass (s : State) (pass : Pass) (side : Side) :
    (s.withPass pass).clipSide side = (s.clipSide side).withPass pass := by
  cases side <;> rfl

theorem frameStep_withPass (s : State) (pass : Pass) :
    (s.withPass pass).frameStep = s.frameOf.withPass (passNext pass) := by
  have hsum : (s.withPass pass).sumBuses.applyMatrix = s.sumBuses.applyMatrix.withPass pass := rfl
  have hout : ∀ u : State, (u.withPass pass).outputFrame = (u.outputFrame).withPass pass := fun _ => rfl
  rw [State.frameStep, hsum, clipSide_withPass, clipSide_withPass, hout, passAdvance_withPass]
  rfl

/-- The frame, when every source has its sample, on any pass that owes one. -/
theorem exec_ownFrame {s : State} (hren : s.params.renderEnabled = true) (hchans : ∀ c, (s.chan c).out ≠ [])
    (hqueues : ∀ q ∈ s.chipQueues, q ≠ []) {pass : Pass} (hpos : 0 < pass.1) :
    exec .frameOut (s.withPass pass) = .next (s.frameOf.withPass (passNext pass)) := by
  rw [← frameStep_withPass]
  exact exec_frameOut ⟨hren, hpos, (PerChan.forall_iff _ _).2 hchans, hqueues⟩

/-- The three kinds of own operation, in their order (log 2). -/
theorem nextOwn_cases {s : State} (hren : s.params.renderEnabled = true) (hpos : 0 < s.framesLeft) :
    (∃ c i, s.ownOfChan c = some i ∧ s.nextOwn = some i)
    ∨ (∃ k, firstEmpty 0 s.chipQueues = some k ∧ s.nextOwn = some (.srcIn k (Config.chipDraw s.ownSteps)))
    ∨ ((∀ c, s.ownOfChan c = none) ∧ firstEmpty 0 s.chipQueues = none ∧ s.nextOwn = some .frameOut) := by
  have hrun : ¬ (s.params.renderEnabled = false ∨ s.framesLeft = 0) := by simp [hren]; omega
  rw [State.nextOwn, if_neg hrun]
  cases h0 : s.ownOfChan .c0 with
  | some i => exact .inl ⟨_, i, h0, rfl⟩
  | none =>
  cases h1 : s.ownOfChan .c1 with
  | some i => exact .inl ⟨_, i, h1, rfl⟩
  | none =>
  cases h2 : s.ownOfChan .c2 with
  | some i => exact .inl ⟨_, i, h2, rfl⟩
  | none =>
  cases h3 : s.ownOfChan .c3 with
  | some i => exact .inl ⟨_, i, h3, rfl⟩
  | none =>
  cases hq : firstEmpty 0 s.chipQueues with
  | some k => exact .inr (.inl ⟨k, rfl, rfl⟩)
  | none => exact .inr (.inr ⟨fun c => by cases c <;> assumption, rfl, rfl⟩)

/-- Which own operation comes next does not depend on the pass, as long as a frame is owed. -/
theorem nextOwn_withPass (s : State) {pass pass' : Pass} (hpos : 0 < pass.1) (hpos' : 0 < pass'.1) :
    (s.withPass pass).nextOwn = (s.withPass pass').nextOwn := by
  have hne : pass.1 ≠ 0 := by omega
  have hne' : pass'.1 ≠ 0 := by omega
  simp only [State.nextOwn, State.withPass, hne, hne', or_false]
  rfl

/-! ## One step on any pass -/

/-- Nothing from outside is to come, and the block may render. -/
def LeftAlone (s : State) : Prop :=
  s.inbox = [] ∧ s.later = [] ∧ s.params.renderEnabled = true ∧ 0 < accOne s.params

/-- An own step takes `s` to `u` and the pass by `f`: work towards the frame, or the frame. -/
inductive OwnStep (s u : State) : (Pass → Pass) → Prop
  | work : u.frames = s.frames → u.work < s.work → OwnStep s u id
  | frame : u.frames.length = s.frames.length + 1 → OwnStep s u passNext

/-- With no frame owed a block left alone stays as it is. -/
theorem step_of_complete {s : State} (h : LeftAlone s) : step (s.withPass (0, [])) = .next (s.withPass (0, [])) := by
  obtain ⟨hin, hlater, -, -⟩ := h
  rw [step_of_idle (s := s.withPass (0, [])) hin (nextOwn_eq_none (.inl rfl))]
  exact congrArg Host.Outcome.next (arrive_of_nil (s := s.withPass (0, [])) hlater)

/-- On every pass that owes a frame a block left alone takes the same step, and the pass is moved by a frame alone. -/
theorem step_of_running {s : State} (h : LeftAlone s) :
    ∃ u f, OwnStep s u f ∧ LeftAlone u
      ∧ ∀ pass : Pass, 0 < pass.1 → step (s.withPass pass) = .next (u.withPass (f pass)) := by
  obtain ⟨hin, hlater, hren, hone⟩ := id h
  have hstep : ∀ {i : Instr}, (s.withPass (1, [])).nextOwn = some i → ∀ pass : Pass, 0 < pass.1 →
      step (s.withPass pass) = exec i (s.countOwn.withPass pass) := fun {i} hi pass hpos =>
    step_of_own hin ((nextOwn_withPass s hpos Nat.one_pos).trans hi)
  rcases nextOwn_cases (s := s.withPass (1, [])) hren Nat.one_pos with
    ⟨c, i, hown, hi⟩ | ⟨k, hk, hi⟩ | ⟨hchans, hqs, hi⟩
  · obtain ⟨ch, hwork, hexec⟩ := exec_ownOfChan (s := s.countOwn) hren hone hown
    exact ⟨s.countOwn.setChan c ch, id, .work rfl (work_setChan_lt (s := s.countOwn) hwork), h,
      fun pass hpos => (hstep hi pass hpos).trans (hexec pass hpos)⟩
  · obtain ⟨hwork, hexec⟩ := exec_ownDraw (s := s.countOwn) hren hk (Config.chipDraw s.ownSteps)
    exact ⟨s.countOwn.supply k (Config.chipDraw s.ownSteps), id, .work rfl hwork, h,
      fun pass hpos => (hstep hi pass hpos).trans (hexec pass hpos)⟩
  · refine ⟨s.countOwn.frameOf, passNext, .frame ?_, ?_, fun pass hpos => (hstep hi pass hpos).trans
      (exec_ownFrame (s := s.countOwn) hren (fun c => out_ne_nil_of_ownOfChan (hchans c)) (firstEmpty_eq_none hqs) hpos)⟩
    · simp [State.frameOf, outputFrame_frames]
    · simpa [LeftAlone, State.frameOf] using h

/-! ## Runs -/

theorem run_succ_of_next {s t : State} (h : step s = .next t) (k : Nat) :
    Host.Core.run Sys2Proof.core (k + 1) s = Host.Core.run Sys2Proof.core k t := by
  have h' : Sys2Proof.core.step s = .next t := h
  simp only [Host.Core.run, h']

/-- A run goes on from where it has come. -/
theorem run_add {s t : State} {j : Nat} (h : Host.Core.run Sys2Proof.core j s = .next t) (l : Nat) :
    Host.Core.run Sys2Proof.core (j + l) s = Host.Core.run Sys2Proof.core l t := by
  induction j generalizing s with
  | zero => cases h; rw [Nat.zero_add]
  | succ j ih =>
    cases hstep : step s with
    | next u =>
      rw [run_succ_of_next hstep] at h
      rw [Nat.succ_add, run_succ_of_next hstep, ih h]
    | fault r => nomatch r
    | refused r =>
      have hstep' : Sys2Proof.core.step s = .refused r := hstep
      simp only [Host.Core.run, hstep'] at h
      cases h

theorem run_of_complete {s : State} (h : LeftAlone s) (k : Nat) :
    Host.Core.run Sys2Proof.core k (s.withPass (0, [])) = .next (s.withPass (0, [])) := by
  induction k with
  | zero => rfl
  | succ k ih => rw [run_succ_of_next (step_of_complete h), ih]

/-- Left alone, the block outputs the frames of the pass and of the waiting requests: by induction on the frames, and for
each on the work towards it. -/
theorem run_completes (n : Nat) {s : State} {pass : Pass} (h : LeftAlone s) (hpass : PassWf pass)
    (hn : passTotal pass = n) :
    ∃ k t, Host.Core.run Sys2Proof.core k (s.withPass pass) = .next t ∧ t.pass = (0, [])
      ∧ t.frames.length = s.frames.length + n := by
  induction n generalizing s pass with
  | zero =>
    rw [eq_nil_of_total_eq_zero hpass hn]
    exact ⟨0, _, rfl, rfl, rfl⟩
  | succ n ih =>
    have hpos : 0 < pass.1 := Nat.pos_of_ne_zero fun h0 => by
      rw [total_eq_zero_of_left hpass h0] at hn
      cases hn
    induction hw : s.work using Nat.strong_induction_on generalizing s with
    | _ w ihw =>
      obtain ⟨u, f, hown, hu, hstep⟩ := step_of_running h
      cases hown with
      | work hframes hwork =>
        obtain ⟨k, t, hrun, hdone, hlen⟩ := ihw u.work (hw ▸ hwork) hu rfl
        exact ⟨k + 1, t, (run_succ_of_next (hstep pass hpos) k).trans hrun, hdone, hframes ▸ hlen⟩
      | frame hframes =>
        obtain ⟨hnext, htotal⟩ := passNext_spec hpass hpos
        obtain ⟨k, t, hrun, hdone, hlen⟩ := ih hu hnext (by omega)
        exact ⟨k + 1, t, (run_succ_of_next (hstep pass hpos) k).trans hrun, hdone, by omega⟩

/-- Settles O58: with rendering enabled by `run_completes`; with it disabled no frame is owed. -/
theorem passesComplete : Obligations.PassesComplete := by
  unfold Obligations.PassesComplete
  intro s h hin hlater
  have hpass := passWf_of_inv h
  cases hren : s.params.renderEnabled with
  | true =>
    obtain ⟨k, t, hrun, hdone, hlen⟩ := run_completes _ (s := s) ⟨hin, hlater, hren, accOne_pos_of_inv h⟩ hpass rfl
    obtain ⟨hleft, hreq⟩ := Prod.mk.inj hdone
    exact ⟨k, t, hrun, hleft, hreq, hlen.trans (Nat.add_assoc ..).symm⟩
  | false =>
    obtain ⟨-, -, -, -, -, -, -, -, -, -, -, -, -, hnone, hdis⟩ := h
    have hleft := hdis hren
    have hreq := hnone hleft
    exact ⟨0, s, rfl, hleft, hreq, by rw [hleft, hreq]; rfl⟩

/-! ## Passes compose -/

/-- Two passes of the same total on one state: after any number of steps they are still two passes of the same total on
one state. -/
theorem run_of_total_eq (k : Nat) {s : State} {pass pass' : Pass} (h : LeftAlone s) (hpass : PassWf pass)
    (hpass' : PassWf pass') (htotal : passTotal pass = passTotal pass') :
    ∃ (u : State) (pu pu' : Pass), Host.Core.run Sys2Proof.core k (s.withPass pass) = .next (u.withPass pu)
      ∧ Host.Core.run Sys2Proof.core k (s.withPass pass') = .next (u.withPass pu')
      ∧ PassWf pu ∧ PassWf pu' ∧ passTotal pu = passTotal pu' := by
  induction k generalizing s pass pass' with
  | zero => exact ⟨s, pass, pass', rfl, rfl, hpass, hpass', htotal⟩
  | succ k ih =>
    by_cases h0 : passTotal pass = 0
    · rw [eq_nil_of_total_eq_zero hpass h0, eq_nil_of_total_eq_zero hpass' (htotal ▸ h0)]
      have hrun := run_of_complete h (k + 1)
      exact ⟨s, _, _, hrun, hrun, passWf_nil 0, passWf_nil 0, rfl⟩
    · have hpos : 0 < pass.1 := Nat.pos_of_ne_zero fun hl => h0 (total_eq_zero_of_left hpass hl)
      have hpos' : 0 < pass'.1 := Nat.pos_of_ne_zero fun hl => h0 (htotal.trans (total_eq_zero_of_left hpass' hl))
      obtain ⟨u, f, hown, hu, hstep⟩ := step_of_running h
      rw [run_succ_of_next (hstep pass hpos), run_succ_of_next (hstep pass' hpos')]
      cases hown with
      | work => exact ih hu hpass hpass' htotal
      | frame =>
        obtain ⟨hnext, hsum⟩ := passNext_spec hpass hpos
        obtain ⟨hnext', hsum'⟩ := passNext_spec hpass' hpos'
        exact ih hu hnext hnext' (by omega)

/-- A pass of `n` frames run to its end; the pass of `n + m` frames is then, after as many steps or fewer, the same state
with `m` frames to go. -/
theorem run_of_longer_pass (k : Nat) (m : Nat) {s t : State} {n : Nat} (h : LeftAlone s)
    (hrun : Host.Core.run Sys2Proof.core k (s.withPass (n, [])) = .next t) (hdone : t.framesLeft = 0) :
    ∃ (j : Nat) (u : State), t = u.withPass (0, []) ∧ LeftAlone u
      ∧ Host.Core.run Sys2Proof.core j (s.withPass (n + m, [])) = .next (u.withPass (m, [])) := by
  induction k generalizing s n with
  | zero =>
    cases hrun
    obtain rfl : n = 0 := hdone
    exact ⟨0, s, rfl, h, by rw [Nat.zero_add]; rfl⟩
  | succ k ih =>
    rcases Nat.eq_zero_or_pos n with rfl | hpos
    · rw [run_of_complete h] at hrun
      cases hrun
      exact ⟨0, s, rfl, h, by rw [Nat.zero_add]; rfl⟩
    · obtain ⟨u, f, hown, hu, hstep⟩ := step_of_running h
      have hlong := hstep (n + m, []) (Nat.add_pos_left hpos m)
      rw [run_succ_of_next (hstep (n, []) hpos)] at hrun
      cases hown with
      | work =>
        obtain ⟨j, v, ht, hv, hreach⟩ := ih hu hrun
        exact ⟨j + 1, v, ht, hv, (run_succ_of_next hlong j).trans hreach⟩
      | frame =>
        rw [passNext_of_no_request] at hrun hlong
        obtain ⟨j, v, ht, hv, hreach⟩ := ih hu hrun
        rw [← Nat.sub_add_comm hpos] at hreach
        exact ⟨j + 1, v, ht, hv, (run_succ_of_next hlong j).trans hreach⟩

/-- `RENDER n` on a state with no pass. -/
theorem exec_render_of_no_pass {s : State} (hren : s.params.renderEnabled = true) (hpass : s.pass = (0, [])) (n : Nat) :
    exec (.render n) s = .next (s.withPass (n, [])) := by
  obtain ⟨hleft, hreq⟩ := Prod.mk.inj hpass
  have hself : ∀ k, s.withPass (k, []) = { s with framesLeft := k } := fun k => by rw [← hreq]; rfl
  rcases Nat.eq_zero_or_pos n with rfl | hn
  · rw [exec_render_zero, hself, ← hleft]
  · rw [exec_render_of_idle hren hn hleft, hself]

/-- `RENDER n`, `RENDER m` from a state with no pass: the second waits behind the first, if both ask for a frame. -/
theorem execAll_render_render {s : State} (hren : s.params.renderEnabled = true) (hpass : s.pass = (0, [])) (n m : Nat) :
    ∃ pass, execAll [.render n, .render m] s = .next (s.withPass pass) ∧ PassWf pass ∧ passTotal pass = n + m := by
  rw [execAll_cons_of_next (exec_render_of_no_pass hren hpass n)]
  rcases Nat.eq_zero_or_pos n with rfl | hn
  · rw [execAll_cons_of_next (exec_render_of_no_pass (s := s.withPass (0, [])) hren rfl m)]
    exact ⟨(m, []), rfl, passWf_nil m, by simp [passTotal]⟩
  rcases Nat.eq_zero_or_pos m with rfl | hm
  · rw [execAll_cons_of_next (exec_render_zero _)]
    exact ⟨(n, []), rfl, passWf_nil n, by simp [passTotal]⟩
  · rw [execAll_cons_of_next (exec_render_of_running (s := s.withPass (n, [])) hren hm hn)]
    refine ⟨(n, [m]), rfl, ⟨by simpa using hm, fun h0 => ?_⟩, by simp [passTotal]⟩
    dsimp only at h0
    omega

/-- Settles O59: (1) the two passes and the one have the same total (`run_of_total_eq`), and a pass of total 0 is none;
(2) the longer pass reaches the state in which the second begins (`run_of_longer_pass`), and a run goes on from there. -/
theorem passesCompose : Obligations.PassesCompose := by
  unfold Obligations.PassesCompose
  intro s n m h hren hleft hin hlater
  have halone : LeftAlone s := ⟨hin, hlater, hren, accOne_pos_of_inv h⟩
  have hpass : s.pass = (0, []) := Prod.ext hleft ((passWf_of_inv h).2 hleft)
  have hlong := exec_render_of_no_pass hren hpass (n + m)
  refine ⟨fun k => ?together, _, _, exec_render_of_no_pass hren hpass n, hlong, fun k t hrun hdone => ?apart⟩
  case together =>
    obtain ⟨pass, hexec, hwf, htotal⟩ := execAll_render_render hren hpass n m
    obtain ⟨u, pu, pu', hrun, hrun', hwfu, hwfu', htotalu⟩ := run_of_total_eq k halone hwf (passWf_nil (n + m)) htotal
    refine ⟨_, _, _, _, hexec, execAll_cons_of_next hlong [], hrun, hrun',
      congrArg (fun j => u.withPass (j, [])) htotalu, fun hdone => ?_⟩
    have h0 := total_eq_zero_of_left hwfu' hdone
    rw [eq_nil_of_total_eq_zero hwfu' h0, eq_nil_of_total_eq_zero hwfu (htotalu.trans h0)]
  case apart =>
    obtain ⟨j, u, rfl, hu, hreach⟩ := run_of_longer_pass k m halone hrun hdone
    obtain ⟨-, -, hren', -⟩ := hu
    have hrender := exec_render_of_no_pass (s := u.withPass (0, [])) hren' rfl m
    exact ⟨u.withPass (m, []), j, hrender, fun l => (run_add hreach l).symm⟩

end Sys2Proof.Machine
end
